-- ==== Sys2Proof/Word.lean ====
section
/-! DEFINITION. The value types of the SBB core (spec/00_scope.md R5, R8, R9): the byte, the 12-bit word and the
24-bit control word. Bit 0 is the least significant bit of every value. -/

namespace Sys2Proof

/-- An 8-bit value: the data width (R5, R9). -/
abbrev Byte := BitVec 8

/-- A 12-bit value: an address, the program counter, a call-stack cell (R5, R9). -/
abbrev Word := BitVec 12

/-- A 4-bit value: one half of an instruction byte, an ALU operation code. -/
abbrev Nibble := BitVec 4

/-- A 24-bit control word, one bit per control line (R34, R150). -/
abbrev ControlWord := BitVec 24

/-- A 14-bit index into the microcode ROM (R36, R160). -/
abbrev RomIndex := BitVec 14

end Sys2Proof
end

