-- ==== Sys2Proof/Config.lean ====
section
/-! DEFINITION. The parameters the spec leaves open or decides once for the machine (spec/00_scope.md R7;
spec/92_eei_decisions.md, "Open parameters in one place"). `ROM` is an argument of the tick (Machine/Tick.lean) with the
value `romRef`; `IMAGE` and `INIT` are arguments of the host's reset, `TICK_CAP` one of the host's loop
(Machine/HostSide.lean); `host_stop` is a line the state holds. -/

namespace Sys2Proof.Config

/-- `MULL_CF`: the carry that ALU operation MULL writes, a total function of the two operand bytes of which nothing is
known (R130, D9, U3). OPEN: a free value, so it has no body. Log entry 3. -/
opaque mullCf : Byte → Byte → Bool

/-- `any_4`: bits 11..8 of a stack cell written by an 8-bit push (R174, D13, U9). OPEN: a free value, drawn afresh for each
8-bit push from the counter `State.freeCount`, so it has no body. Log entry 4. -/
opaque freeNibble : Nat → Nibble

/-- `DEC_CF_IS_BORROW`, decided true (R124, D8): after DEC the carry holds the borrow. Log entry 5. -/
def decCfIsBorrow : Bool := true

/-- `MUL_SIGNED`, decided false (R131, D10): the product is that of the unsigned views. Log entry 5. -/
def mulSigned : Bool := false

end Sys2Proof.Config
end

