-- ==== Sys2Proof/Machine/Alu.lean ====
section
/-! DEFINITION. The ALU: the operation codes and the result byte of each operation (spec/40_alu.md R120 to R139). The flags
are in Machine/Flags.lean. -/

namespace Sys2Proof.Machine

/-- The twelve ALU operations (R121 to R132). -/
inductive AluOp where
  | add | sub | inc | dec | and | or | not | rsh | lsh | mull | mulh | xor
  deriving DecidableEq, Repr

/-- The operation code `L4 L3 L2 L1` of an operation (R139). -/
def aluOpCode : AluOp → Nibble
  | .add => 0b0001
  | .sub => 0b0010
  | .inc => 0b0011
  | .dec => 0b0100
  | .and => 0b0101
  | .or => 0b0110
  | .not => 0b0111
  | .rsh => 0b1000
  | .lsh => 0b1001
  | .mull => 0b1010
  | .mulh => 0b1011
  | .xor => 0b1100

/-- The operations in the order of their codes. -/
def aluOps : List AluOp := [.add, .sub, .inc, .dec, .and, .or, .not, .rsh, .lsh, .mull, .mulh, .xor]

/-- The operation a code selects; `none` for 0000, no operation (R133), and for the reserved 1101, 1110, 1111 (R134). -/
def aluOpOfCode (code : Nibble) : Option AluOp := aluOps.find? (fun op => aluOpCode op == code)

/-- A + B in nine bits (R121). -/
def addSum (a b : Byte) : BitVec 9 := a.setWidth 9 + b.setWidth 9

/-- A + ~B + 1 in nine bits (R122). -/
def subSum (a b : Byte) : BitVec 9 := a.setWidth 9 + (~~~b).setWidth 9 + 1

/-- A + 1 in nine bits (R123). -/
def incSum (a : Byte) : BitVec 9 := a.setWidth 9 + 1

/-- The 16-bit product of the unsigned or of the signed views (R130, R131, R138). -/
def product (signed : Bool) (a b : Byte) : BitVec 16 :=
  if signed then a.signExtend 16 * b.signExtend 16 else a.setWidth 16 * b.setWidth 16

/-- The result byte `r` of an operation (R121 to R132). -/
def aluResult (op : AluOp) (a b : Byte) : Byte :=
  match op with
  | .add => (addSum a b).extractLsb' 0 8
  | .sub => (subSum a b).extractLsb' 0 8
  | .inc => (incSum a).extractLsb' 0 8
  | .dec => a - 1
  | .and => a &&& b
  | .or => a ||| b
  | .not => ~~~a
  | .rsh => a >>> 1
  | .lsh => a <<< 1
  | .mull => (product Config.mulSigned a b).extractLsb' 0 8
  | .mulh => (product Config.mulSigned a b).extractLsb' 8 8
  | .xor => a ^^^ b

end Sys2Proof.Machine
end

