-- ==== Sys2Proof/Syntax.lean ====
section
/-! DEFINITION. The instructions of spec/opcode_table.json, one constructor per row, in the table's order, and the three
formats of spec/30_encoding.md R90. Operands carry their width in their type: a 12-bit absolute address or target (R95), an
8-bit immediate (R96). -/

namespace Sys2Proof

/-- The SBB instruction set (R97, R98, R99). -/
inductive Instr where
  -- addressed, two bytes (R91, R97)
  | lda (addr : Word)
  | add (addr : Word)
  | sub (addr : Word)
  | sta (addr : Word)
  | jmp (target : Word)
  | jmpc (target : Word)
  | jmpz (target : Word)
  | jmpn (target : Word)
  | jsr (target : Word)
  | and (addr : Word)
  | or (addr : Word)
  | mull (addr : Word)
  | mulh (addr : Word)
  -- immediate, two bytes (R92, R98)
  | ldi (imm : Byte)
  | ldib (imm : Byte)
  | addImm (imm : Byte)
  | subImm (imm : Byte)
  | pushImm (imm : Byte)
  | haltImm (imm : Byte)
  | setp (imm : Byte)
  -- nullary, one byte (R93, R99)
  | out
  | inc
  | not
  | rsh
  | lsh
  | take
  | move
  | pusha
  | popa
  | ret
  | halta
  | refresh
  | halt
  | multl
  deriving DecidableEq, Repr

/-- The fields of an instruction, by format (R90): an addressed class `IR[7:4]` with its 12-bit operand (R91), the low
nibble of an immediate opcode byte with its immediate (R92), or the low nibble of a nullary opcode byte (R93). -/
inductive Fields where
  | addressed (cls : Nibble) (addr : Word)
  | immediate (n : Nibble) (imm : Byte)
  | nullary (n : Nibble)
  deriving DecidableEq, Repr

end Sys2Proof
end

