-- ==== Sys2Proof/Machine/State.lean ====
section
/-! DEFINITION. The state of the SBB machine (spec/10_state.md R20 to R42), the reasons a step can stop, and the state after
reset. The buses (R37) and the microcode ROM (R36) are not state. State is plain data. -/

namespace Sys2Proof.Machine

/-- RAM as a list of (address, byte) pairs in one canonical form: addresses strictly rising and below 4096, and no entry
equal to what an unlisted address reads as, which is 0 (R35, R42; D18 for the zero). The operations are in Machine/Ops.lean. -/
abbrev Memory := List Host.Cell

/-- What CORE sends the screen device (R352 to R354): the byte offered to the screen-pointer register in a tick with PI, or
the redraw request of a tick with RF. -/
inductive ScreenEvent where
  | pi (v : Byte)
  | rf
  deriving DecidableEq, Repr

/-- Why the machine stops without a next state. -/
inductive Fault where
  /-- Raised by the tick, and by the step, of a machine whose HALTED is already true: "Once true, no further tick is taken"
  (R38, R346, U16). Safe: nothing is claimed of a halted machine that is ticked again. -/
  | halted
  deriving DecidableEq, Repr

/-- Why the model gives a step no meaning: the spec's `refuse` (R10, R341), never an event of the machine. -/
inductive Refusal where
  /-- Raised by an arm of exec for an instruction that has no meaning yet. Safe. No arm raises it now. -/
  | notModelled (mnemonic : String)
  /-- Raised when the first byte of an instruction is one of the 27 reserved values, by the step that fetches it and by the
  tick that would read the undefined ROM entry (R100, R244, D19, U7). Safe. -/
  | reservedOpcode (b0 : Byte)
  /-- Raised by the tick that reads a non-zero control word which R153 does not admit (D14, U6, U8). Safe. -/
  | notAdmitted (w : ControlWord)
  /-- Raised by a tick whose word reads a bus that nothing drives (R37, D30). No admitted word does; it makes the datapath a
  total function of any word. Safe. -/
  | undrivenBus (w : ControlWord)
  deriving DecidableEq, Repr

/-- The complete state of CORE (R20), then the host's line, the screen's side of CORE's boundary, and the model's own
counter. Each field is the one home of its piece of state (R41). -/
structure State where
  /-- A, the accumulator (R21). -/
  a : Byte
  /-- B, the ALU's second operand (R22). -/
  b : Byte
  /-- IR, the first byte of the current instruction (R23). -/
  ir : Byte
  /-- IR2, the second byte of an addressed instruction (R24). -/
  ir2 : Byte
  /-- OUT, the output register the host reads (R25). -/
  out : Byte
  /-- PC, the program counter (R26). -/
  pc : Word
  /-- CF, the carry flag (R27). -/
  cf : Bool
  /-- ZF, the zero flag (R27). -/
  zf : Bool
  /-- SF, the sign flag (R27). -/
  sf : Bool
  /-- MAR, the memory address register (R30). -/
  mar : Word
  /-- SP, the call-stack pointer: the next free cell (R31). -/
  sp : BitVec 8
  /-- STK, the call stack of 256 cells of 12 bits (R32). -/
  stk : Vector Word 256
  /-- STEP, the micro-step counter (R33). -/
  microStep : BitVec 3
  /-- CW, the control word of the current tick (R34). -/
  cw : ControlWord
  /-- RAM, 4096 bytes (R35, R60). -/
  ram : Memory
  /-- HALTED, the marker that the run has ended (R38). -/
  halted : Bool
  /-- `host_stop`, the host's line sampled in step 2 of each tick (R164, R348, D23). CORE never writes it. The spec gives it no
  level at reset; the model starts it at false (DESIGN CHOICE, log entry 15). -/
  hostStop : Bool
  /-- The screen device's screen-pointer register, loaded on PI (R177, R352, R353). CORE cannot read it. -/
  screenPtr : Byte
  /-- The screen events CORE has emitted, the newest first (R177, R180, D22, D32). -/
  screenEvents : List ScreenEvent
  /-- The values written to OUT, the newest first: the machine's observable trace (R25, D32). -/
  outTrace : List Byte
  /-- The model's own: how many free nibbles 8-bit pushes have drawn from `Config.freeNibble` (D13). Log entry 4. -/
  freeCount : Nat
  deriving DecidableEq, Repr

/-- The machine right after reset (R42, R370), with every register whose reset value the spec leaves unspecified at zero
(log entry 1, DESIGN CHOICE) and with RAM as an image that covers no byte (log entry 2). Reset does not touch the host's
line, and the spec gives it no level then: it is false here (log entry 15, DESIGN CHOICE). `State.boot` in
Machine/HostSide.lean is the reset for any such values and any image. -/
def State.reset : State where
  a := 0
  b := 0
  ir := 0
  ir2 := 0
  out := 0
  pc := 0
  cf := false
  zf := false
  sf := false
  mar := 0
  sp := 0
  stk := Vector.replicate 256 0
  microStep := 0
  cw := 0
  ram := []
  halted := false
  hostStop := false
  screenPtr := 0
  screenEvents := []
  outTrace := []
  freeCount := 0

end Sys2Proof.Machine
end

