-- ==== Sys2Proof/Machine/Flags.lean ====
section
/-! DEFINITION. The flag laws: what an ALU operation writes to CF, ZF and SF (spec/10_state.md R28; spec/40_alu.md R121 to
R136). -/

namespace Sys2Proof.Machine

/-- The carry an operation writes; `none` where the operation leaves CF unchanged (R136, D6). MULL's is the free function
`Config.mullCf` (R130, D9). -/
def aluCarry (op : AluOp) (a b : Byte) : Option Bool :=
  match op with
  | .add => some ((addSum a b).getLsbD 8)
  | .sub => some ((subSum a b).getLsbD 8)
  | .inc => some ((incSum a).getLsbD 8)
  | .dec => some ((a == 0) == Config.decCfIsBorrow)
  | .lsh => some (a.getLsbD 7)
  | .mull => some (Config.mullCf a b)
  | .and | .or | .not | .rsh | .mulh | .xor => none

/-- The flags after an operation on operands a and b: ZF and SF from the result (R135), CF by R136. -/
def setFlags (op : AluOp) (a b : Byte) (s : State) : State :=
  { s with
    cf := (aluCarry op a b).getD s.cf
    zf := aluResult op a b == 0
    sf := (aluResult op a b).getLsbD 7 }

end Sys2Proof.Machine
end

