-- ==== Sys2Proof/Decode.lean ====
section
/-! DEFINITION. The opcode map, the decoder (spec/30_encoding.md R90 to R102), the encoder, and the host's decodeTableWord.
Decoding is total on byte lists and rejects by name. -/

namespace Sys2Proof

/-! ## The opcode map -/

/-- R97: the addressed classes. Class 0x0 is reserved (R100). -/
def addressedMap : List (Nibble × (Word → Instr)) :=
  [(0x1#4, .lda), (0x2#4, .add), (0x3#4, .sub), (0x4#4, .sta), (0x5#4, .jmp), (0x6#4, .jmpc), (0x7#4, .jmpz),
   (0x8#4, .jmpn), (0x9#4, .jsr), (0xA#4, .and), (0xB#4, .or), (0xC#4, .mull), (0xD#4, .mulh)]

/-- R98: the immediate opcodes 0xE0..0xE6. 0xE7..0xEF are reserved (R100). -/
def immediateMap : List (Nibble × (Byte → Instr)) :=
  [(0x0#4, .ldi), (0x1#4, .ldib), (0x2#4, .addImm), (0x3#4, .subImm), (0x4#4, .pushImm), (0x5#4, .haltImm),
   (0x6#4, .setp)]

/-- R99: the nullary opcodes 0xF0..0xFD. 0xFE and 0xFF are reserved (R100). -/
def nullaryMap : List (Nibble × Instr) :=
  [(0x0#4, .out), (0x1#4, .inc), (0x2#4, .not), (0x3#4, .rsh), (0x4#4, .lsh), (0x5#4, .take), (0x6#4, .move),
   (0x7#4, .pusha), (0x8#4, .popa), (0x9#4, .ret), (0xA#4, .halta), (0xB#4, .refresh), (0xC#4, .halt), (0xD#4, .multl)]

/-- The entry of an opcode map under a nibble, if there is one. -/
def lookupNibble {α : Type} (n : Nibble) : List (Nibble × α) → Option α
  | [] => none
  | (k, v) :: rest => if n = k then some v else lookupNibble n rest

/-! ## Bit fields of the instruction bytes -/

/-- Bits 7..4 of a byte: the opcode class (R90). -/
def highNibble (b : Byte) : Nibble := b.extractLsb' 4 4

/-- Bits 3..0 of a byte: address bits 11..8 (R91), or the opcode within class 0xE or 0xF (R92, R93). -/
def lowNibble (b : Byte) : Nibble := b.extractLsb' 0 4

/-- R95: the address operand, `IR[3:0] ++ IR2`. -/
def addressOperand (b0 b1 : Byte) : Word := lowNibble b0 ++ b1

/-- R90 to R93: a first byte and the byte after it, cut into fields. The second byte enters only where the format has one. -/
def splitFields (b0 b1 : Byte) : Fields :=
  if highNibble b0 = 0xF#4 then .nullary (lowNibble b0)
  else if highNibble b0 = 0xE#4 then .immediate (lowNibble b0) b1
  else .addressed (highNibble b0) (addressOperand b0 b1)

/-- R94: the length of an instruction in bytes, from its first byte alone. -/
def lengthOfByte (b0 : Byte) : Nat := if highNibble b0 = 0xF#4 then 1 else 2

/-! ## Decoding -/

/-- Why a byte list holds no instruction: it ends before the instruction does, or its first byte is one of the 27 reserved
values of R100. -/
inductive DecodeError where
  | truncated
  | reserved (b0 : Byte)
  deriving DecidableEq, Repr

/-- The row of R97, R98 or R99 that fields select; `none` where the row is reserved (R100). -/
def instrOfFields : Fields → Option Instr
  | .addressed cls addr => (lookupNibble cls addressedMap).map (fun f => f addr)
  | .immediate n imm => (lookupNibble n immediateMap).map (fun f => f imm)
  | .nullary n => lookupNibble n nullaryMap

/-- R102, the decoding procedure, on a first byte and the byte after it. `none`: the first byte is reserved (R100). -/
def decodePair (b0 b1 : Byte) : Option Instr := instrOfFields (splitFields b0 b1)

/-- The first instruction of a byte list and the bytes after it (R94, R100, R102). -/
def decode : List Byte → Except DecodeError (Instr × List Byte)
  | [] => .error .truncated
  | b0 :: rest =>
    match decodePair b0 (rest.headD 0) with
    | none => .error (.reserved b0)
    | some i =>
      if lengthOfByte b0 = 1 then .ok (i, rest)
      else match rest with
        | [] => .error .truncated
        | _ :: rest' => .ok (i, rest')

/-! ## Encoding -/

/-- The fields of an instruction (R97, R98, R99). -/
def fieldsOf : Instr → Fields
  | .lda addr => .addressed 0x1 addr
  | .add addr => .addressed 0x2 addr
  | .sub addr => .addressed 0x3 addr
  | .sta addr => .addressed 0x4 addr
  | .jmp target => .addressed 0x5 target
  | .jmpc target => .addressed 0x6 target
  | .jmpz target => .addressed 0x7 target
  | .jmpn target => .addressed 0x8 target
  | .jsr target => .addressed 0x9 target
  | .and addr => .addressed 0xA addr
  | .or addr => .addressed 0xB addr
  | .mull addr => .addressed 0xC addr
  | .mulh addr => .addressed 0xD addr
  | .ldi imm => .immediate 0x0 imm
  | .ldib imm => .immediate 0x1 imm
  | .addImm imm => .immediate 0x2 imm
  | .subImm imm => .immediate 0x3 imm
  | .pushImm imm => .immediate 0x4 imm
  | .haltImm imm => .immediate 0x5 imm
  | .setp imm => .immediate 0x6 imm
  | .out => .nullary 0x0
  | .inc => .nullary 0x1
  | .not => .nullary 0x2
  | .rsh => .nullary 0x3
  | .lsh => .nullary 0x4
  | .take => .nullary 0x5
  | .move => .nullary 0x6
  | .pusha => .nullary 0x7
  | .popa => .nullary 0x8
  | .ret => .nullary 0x9
  | .halta => .nullary 0xA
  | .refresh => .nullary 0xB
  | .halt => .nullary 0xC
  | .multl => .nullary 0xD

/-- The first byte that fields are written as (R91, R92, R93). -/
def joinFirst : Fields → Byte
  | .addressed cls addr => cls ++ addr.extractLsb' 8 4
  | .immediate n _ => 0xE#4 ++ n
  | .nullary n => 0xF#4 ++ n

/-- The byte after the first, where the format has one (R91, R92, R93). -/
def joinRest : Fields → List Byte
  | .addressed _ addr => [addr.extractLsb' 0 8]
  | .immediate _ imm => [imm]
  | .nullary _ => []

/-- The first byte of an instruction: what the fetch puts into IR (R23, R205). -/
def firstByte (i : Instr) : Byte := joinFirst (fieldsOf i)

/-- The bytes of an instruction, the first at the lowest address (R65, R91, R92, R93). -/
def encode (i : Instr) : List Byte := firstByte i :: joinRest (fieldsOf i)

/-! ## The host's numbering of an instruction's bits -/

/-- The two bytes a table word stands for, first byte first. The table writes a two-byte instruction as ONE 16-bit pattern
with byte 0 in bits 15..8 (R91, R102), and a one-byte one as bits 7..0; the byte after a one-byte instruction is zero.
Log entry 8. -/
def tableBytes (nbits w : Nat) : Byte × Byte :=
  if nbits ≤ 8 then (BitVec.ofNat 8 w, 0)
  else (BitVec.ofNat 8 (w / 256), BitVec.ofNat 8 w)

/-- The instruction the decoder reads from a word numbered as spec/opcode_table.json numbers it. -/
def decodeTableWord (nbits w : Nat) : Option Instr :=
  match decode [(tableBytes nbits w).1, (tableBytes nbits w).2] with
  | .ok (i, _) => some i
  | .error _ => none

end Sys2Proof
end

