-- ==== Sys2Proof/Machine/Operands.lean ====
section
/-! DEFINITION. Where an instruction's bytes and operands come from: the fetch, and the net effect of the operand micro-steps
of each format on IR, IR2, MAR and PC (spec/42_microcode_rom.md R205, R206; spec/43_addressed.md R250;
spec/44_control_transfer.md R270 to R275; spec/45_immediate.md R290; spec/46_nullary.md R310). -/

namespace Sys2Proof.Machine

/-- The byte of RAM at an address: the first entry listed under it, zero where there is none (R62; D18). -/
def Memory.read : Memory → Nat → Byte
  | [], _ => 0
  | (k, v) :: rest, x => if x = k then v else Memory.read rest x

/-- `MemRead(addr, 1)` (R10, R62). -/
def readByte (s : State) (addr : Word) : Byte := Memory.read s.ram addr.toNat

/-- The 12-bit operand that IO drives onto the address bus, `IR[3:0] ++ IR2` (R95, R170). -/
def busOperand (s : State) : Word := addressOperand s.ir s.ir2

/-- The instruction whose bytes stand at PC and at PC + 1 (mod 4096), R102; `none`: its first byte is reserved (R100). -/
def fetched (s : State) : Option Instr := decodePair (readByte s s.pc) (readByte s (s.pc + 1))

/-- Addressed, operand used as a memory address (R250): both bytes read, PC past them, MAR at the operand. -/
def takeMemoryOperand (i : Instr) (addr : Word) (s : State) : State :=
  { s with ir := firstByte i, ir2 := addr.extractLsb' 0 8, pc := s.pc + 2, mar := addr }

/-- Addressed, operand used as a target (R270, R274): as above, but MAR is left at the operand byte. -/
def takeTarget (i : Instr) (target : Word) (s : State) : State :=
  { s with ir := firstByte i, ir2 := target.extractLsb' 0 8, pc := s.pc + 2, mar := s.pc + 1 }

/-- A conditional branch not taken (R271): PC past the operand byte, which is never read. -/
def skipTarget (i : Instr) (s : State) : State :=
  { s with ir := firstByte i, pc := s.pc + 2, mar := s.pc }

/-- Immediate (R290): the operand byte goes to its destination, not to IR2. -/
def takeImmediate (i : Instr) (s : State) : State :=
  { s with ir := firstByte i, pc := s.pc + 2, mar := s.pc + 1 }

/-- Nullary (R310): the opcode byte only. -/
def takeNone (i : Instr) (s : State) : State :=
  { s with ir := firstByte i, pc := s.pc + 1, mar := s.pc }

end Sys2Proof.Machine
end

