-- ==== Sys2Proof/Machine/Ops.lean ====
section
/-! DEFINITION. The named operations the meanings and the tick share: RAM (spec/20_memory.md R60 to R68), the call stack
(spec/41_control_and_tick.md R174, R175), the output register and the screen lines (R176, R177, R180), the ALU with its
destination A, the end of an instruction (R162, R183) and the halt (R164). THE MACHINE HAS NO EXCEPTION AND NO RETURN FROM
ONE (spec/60_exceptions.md R340 to R345), so there is no operation that takes one. -/

namespace Sys2Proof.Machine

/-! ## RAM -/

/-- The cells without the entries under one address. -/
def Memory.erase (m : Memory) (x : Nat) : Memory := m.filter (fun c => c.1 != x)

/-- The cells with a non-zero byte put under one address, in rising order. -/
def Memory.insert : Memory → Nat → Byte → Memory
  | [], x, v => [(x, v)]
  | (k, w) :: rest, x, v =>
    if x < k then (x, v) :: (k, w) :: rest
    else if x = k then (x, v) :: rest
    else (k, w) :: Memory.insert rest x v

/-- The cells after a byte is written: writing zero, which unlisted addresses read as, removes the entry. -/
def Memory.write (m : Memory) (x : Nat) (v : Byte) : Memory :=
  if v = 0 then Memory.erase m x else Memory.insert m x v

/-- Every address of a list of cells lies above a bound. -/
def Memory.above (x : Nat) (m : Memory) : Bool := m.all (fun c => decide (x < c.1))

/-- The canonical form: addresses strictly rising and below 4096 (R60), no listed byte zero. -/
def Memory.wf : Memory → Bool
  | [] => true
  | (k, v) :: rest => decide (k < 4096) && v != 0 && Memory.above k rest && Memory.wf rest

/-- `MemWrite(addr, 1, v)` (R10, R62). -/
def writeByte (addr : Word) (v : Byte) (s : State) : State :=
  { s with ram := Memory.write s.ram addr.toNat v }

/-- The bytes at an address and the following ones (mod 4096). -/
def bytesFrom (s : State) (p : Word) : Nat → List Byte
  | 0 => []
  | n + 1 => readByte s p :: bytesFrom s (p + 1) n

/-! ## The call stack -/

/-- The cell the next pop reads (R31, R175). -/
def topCell (s : State) : Word := s.stk[(s.sp - 1).toNat]'((s.sp - 1).isLt)

/-- A 12-bit value pushed: written at SP, then SP advances modulo 256 (R174, SA = 1). -/
def pushWord (v : Word) (s : State) : State :=
  { s with stk := s.stk.set s.sp.toNat v s.sp.isLt, sp := s.sp + 1 }

/-- A byte pushed (R174, SA = 0): bits 11..8 of the cell are a free nibble, a fresh one each time (D13). Log entry 4. -/
def pushByte (v : Byte) (s : State) : State :=
  { s with
    stk := s.stk.set s.sp.toNat (Config.freeNibble s.freeCount ++ v) s.sp.isLt
    sp := s.sp + 1
    freeCount := s.freeCount + 1 }

/-- SP after a pop (R175); the cell keeps its content (D29). The value popped is `topCell` of the state before. -/
def dropCell (s : State) : State := { s with sp := s.sp - 1 }

/-! ## Registers and lines with more than one piece of state behind them -/

/-- OUT <- v, and the trace of OUT (R25, R176, D32). -/
def writeOut (v : Byte) (s : State) : State := { s with out := v, outTrace := v :: s.outTrace }

/-- The PI line with a byte: the screen-pointer register takes it, and the event is recorded (R177, R353). -/
def emitPointer (v : Byte) (s : State) : State :=
  { s with screenPtr := v, screenEvents := .pi v :: s.screenEvents }

/-- The RF line: the redraw request is recorded (R180, R354). -/
def emitRefresh (s : State) : State := { s with screenEvents := .rf :: s.screenEvents }

/-- An ALU operation on A and B with its result into A (R137, R165, R176). -/
def aluToA (op : AluOp) (s : State) : State :=
  { setFlags op s.a s.b s with a := aluResult op s.a s.b }

/-! ## The end of an instruction -/

/-- The terminator tick: the next tick begins a fetch (R162, R183). -/
def endInstruction (s : State) : State := { s with microStep := 0, cw := 0 }

/-- The tick that observes HT, with STEP left at a value (R164, R346). -/
def haltAtStep (k : BitVec 3) (s : State) : State :=
  { s with halted := true, microStep := k, cw := 0x004000 }

/-! ## Placing an instruction where the step fetches -/

/-- Two bytes stored at PC and PC + 1, at an instruction boundary of a machine that runs: what the very next step fetches. -/
def placeBytes (b0 b1 : Byte) (s : State) : State :=
  writeByte (s.pc + 1) b1 (writeByte s.pc b0 { s with microStep := 0, halted := false, hostStop := false })

end Sys2Proof.Machine
end

