-- ==== Sys2Proof/Machine/Addressed.lean ====
section
/-! DEFINITION. The addressed data instructions LDA, STA, ADD, SUB, AND, OR, MULL, MULH (spec/43_addressed.md R250 to
R258). -/

namespace Sys2Proof.Machine

/-- The ALU instructions with a memory operand: the operand goes into B, then the operation into A (R212, R253 to R258). -/
def memoryToAlu (op : AluOp) (i : Instr) (addr : Word) (s : State) : Host.Outcome State Fault Refusal :=
  let s := takeMemoryOperand i addr s
  .next (endInstruction (aluToA op { s with b := readByte s addr }))

/-- LDA: A <- RAM[addr] (R251). -/
def execLda (addr : Word) (s : State) : Host.Outcome State Fault Refusal :=
  let s := takeMemoryOperand (.lda addr) addr s
  .next (endInstruction { s with a := readByte s addr })

/-- STA: RAM[addr] <- A (R252). -/
def execSta (addr : Word) (s : State) : Host.Outcome State Fault Refusal :=
  let s := takeMemoryOperand (.sta addr) addr s
  .next (endInstruction (writeByte addr s.a s))

/-- ADD: B <- RAM[addr]; A <- A + B (R253). -/
def execAdd (addr : Word) (s : State) : Host.Outcome State Fault Refusal := memoryToAlu .add (.add addr) addr s

/-- SUB: B <- RAM[addr]; A <- A - B (R254). -/
def execSub (addr : Word) (s : State) : Host.Outcome State Fault Refusal := memoryToAlu .sub (.sub addr) addr s

/-- AND: B <- RAM[addr]; A <- A & B (R255). -/
def execAnd (addr : Word) (s : State) : Host.Outcome State Fault Refusal := memoryToAlu .and (.and addr) addr s

/-- OR: B <- RAM[addr]; A <- A | B (R256). -/
def execOr (addr : Word) (s : State) : Host.Outcome State Fault Refusal := memoryToAlu .or (.or addr) addr s

/-- MULL: B <- RAM[addr]; A <- the low byte of A * B, CF free (R257, D9). -/
def execMull (addr : Word) (s : State) : Host.Outcome State Fault Refusal := memoryToAlu .mull (.mull addr) addr s

/-- MULH: B <- RAM[addr]; A <- the high byte of A * B (R258). -/
def execMulh (addr : Word) (s : State) : Host.Outcome State Fault Refusal := memoryToAlu .mulh (.mulh addr) addr s

end Sys2Proof.Machine
end

