-- ==== Sys2Proof/Machine/Immediate.lean ====
section
/-! DEFINITION. The immediate instructions LDI, LDIB, ADD#, SUB#, PUSH#, HALT#, SETP (spec/45_immediate.md R290 to R297). -/

namespace Sys2Proof.Machine

/-- The ALU instructions with an immediate operand: the operand goes into B, then the operation into A (R225, R293, R294). -/
def immediateToAlu (op : AluOp) (i : Instr) (imm : Byte) (s : State) : Host.Outcome State Fault Refusal :=
  .next (endInstruction (aluToA op { takeImmediate i s with b := imm }))

/-- LDI: A <- imm (R291). -/
def execLdi (imm : Byte) (s : State) : Host.Outcome State Fault Refusal :=
  .next (endInstruction { takeImmediate (.ldi imm) s with a := imm })

/-- LDIB: B <- imm (R292). -/
def execLdib (imm : Byte) (s : State) : Host.Outcome State Fault Refusal :=
  .next (endInstruction { takeImmediate (.ldib imm) s with b := imm })

/-- ADD#: B <- imm; A <- A + B (R293). -/
def execAddImm (imm : Byte) (s : State) : Host.Outcome State Fault Refusal := immediateToAlu .add (.addImm imm) imm s

/-- SUB#: B <- imm; A <- A - B (R294). -/
def execSubImm (imm : Byte) (s : State) : Host.Outcome State Fault Refusal := immediateToAlu .sub (.subImm imm) imm s

/-- PUSH#: an 8-bit push of imm (R295). -/
def execPushImm (imm : Byte) (s : State) : Host.Outcome State Fault Refusal :=
  .next (endInstruction (pushByte imm (takeImmediate (.pushImm imm) s)))

/-- HALT#: OUT <- imm, then the halt with STEP left at 5 (R296). -/
def execHaltImm (imm : Byte) (s : State) : Host.Outcome State Fault Refusal :=
  .next (haltAtStep 5 (writeOut imm (takeImmediate (.haltImm imm) s)))

/-- SETP: the screen-pointer register takes imm over the PI line (R297). -/
def execSetp (imm : Byte) (s : State) : Host.Outcome State Fault Refusal :=
  .next (endInstruction (emitPointer imm (takeImmediate (.setp imm) s)))

end Sys2Proof.Machine
end

