-- ==== Sys2Proof/Machine/Nullary.lean ====
section
/-! DEFINITION. The nullary instructions but RET: OUT, INC, NOT, RSH, LSH, TAKE, MOVE, PUSHA, POPA, HALTA, REFRESH, HALT,
MULTL (spec/46_nullary.md R310 to R323). -/

namespace Sys2Proof.Machine

/-- The one-byte ALU instructions: the operation on A and B as they are, into A (R312 to R315, R323). -/
def registerAlu (op : AluOp) (i : Instr) (s : State) : Host.Outcome State Fault Refusal :=
  .next (endInstruction (aluToA op (takeNone i s)))

/-- OUT: OUT <- A (R311). -/
def execOut (s : State) : Host.Outcome State Fault Refusal :=
  .next (endInstruction (writeOut s.a (takeNone .out s)))

/-- INC: A <- A + 1 (R312). -/
def execInc (s : State) : Host.Outcome State Fault Refusal := registerAlu .inc .inc s

/-- NOT: A <- ~A (R313). -/
def execNot (s : State) : Host.Outcome State Fault Refusal := registerAlu .not .not s

/-- RSH: A <- A >> 1 (R314). -/
def execRsh (s : State) : Host.Outcome State Fault Refusal := registerAlu .rsh .rsh s

/-- LSH: A <- A << 1, CF <- A[7] (R315). -/
def execLsh (s : State) : Host.Outcome State Fault Refusal := registerAlu .lsh .lsh s

/-- TAKE: A <- B (R316). -/
def execTake (s : State) : Host.Outcome State Fault Refusal :=
  .next (endInstruction { takeNone .take s with a := s.b })

/-- MOVE: B <- A (R317). -/
def execMove (s : State) : Host.Outcome State Fault Refusal :=
  .next (endInstruction { takeNone .move s with b := s.a })

/-- PUSHA: an 8-bit push of A (R318). -/
def execPusha (s : State) : Host.Outcome State Fault Refusal :=
  .next (endInstruction (pushByte s.a (takeNone .pusha s)))

/-- POPA: the low 8 bits of the popped cell into A (R319). -/
def execPopa (s : State) : Host.Outcome State Fault Refusal :=
  let s := takeNone .popa s
  .next (endInstruction { dropCell s with a := (topCell s).extractLsb' 0 8 })

/-- HALTA: OUT <- A, then the halt with STEP left at 4 (R320). -/
def execHalta (s : State) : Host.Outcome State Fault Refusal :=
  .next (haltAtStep 4 (writeOut s.a (takeNone .halta s)))

/-- REFRESH: the redraw request over the RF line (R321). -/
def execRefresh (s : State) : Host.Outcome State Fault Refusal :=
  .next (endInstruction (emitRefresh (takeNone .refresh s)))

/-- HALT: the halt with STEP left at 3 (R322). -/
def execHalt (s : State) : Host.Outcome State Fault Refusal := .next (haltAtStep 3 (takeNone .halt s))

/-- MULTL: A <- the low byte of A * B, B as it is, CF free (R323, D9). -/
def execMultl (s : State) : Host.Outcome State Fault Refusal := registerAlu .mull .multl s

end Sys2Proof.Machine
end

