-- ==== Sys2Proof/Machine/Transfer.lean ====
section
/-! DEFINITION. Control transfer: JMP, JMPC, JMPZ, JMPN, JSR, RET (spec/44_control_transfer.md R270 to R275). -/

namespace Sys2Proof.Machine

/-- PC <- target, after the operand (R270). -/
def jumpTo (i : Instr) (target : Word) (s : State) : State := { takeTarget i target s with pc := target }

/-- A conditional branch on a flag: taken it behaves like JMP, else PC goes past the operand (R271). -/
def branchOn (flag : Bool) (i : Instr) (target : Word) (s : State) : Host.Outcome State Fault Refusal :=
  .next (endInstruction (if flag then jumpTo i target s else skipTarget i s))

/-- JMP (R270). -/
def execJmp (target : Word) (s : State) : Host.Outcome State Fault Refusal :=
  .next (endInstruction (jumpTo (.jmp target) target s))

/-- JMPC: on CF (R271). -/
def execJmpc (target : Word) (s : State) : Host.Outcome State Fault Refusal := branchOn s.cf (.jmpc target) target s

/-- JMPZ: on ZF (R272). -/
def execJmpz (target : Word) (s : State) : Host.Outcome State Fault Refusal := branchOn s.zf (.jmpz target) target s

/-- JMPN: on SF (R273). -/
def execJmpn (target : Word) (s : State) : Host.Outcome State Fault Refusal := branchOn s.sf (.jmpn target) target s

/-- JSR: the address of the following instruction is pushed, then PC <- target (R274). -/
def execJsr (target : Word) (s : State) : Host.Outcome State Fault Refusal :=
  let s := takeTarget (.jsr target) target s
  .next (endInstruction { pushWord s.pc s with pc := target })

/-- RET: all 12 bits of the popped cell into PC (R275). -/
def execRet (s : State) : Host.Outcome State Fault Refusal :=
  let s := takeNone .ret s
  .next (endInstruction { dropCell s with pc := topCell s })

end Sys2Proof.Machine
end

