-- ==== Sys2Proof/Machine/Dispatch.lean ====
section
/-! DEFINITION. exec: one arm per instruction of spec/opcode_table.json, each a call of that instruction's meaning. -/

namespace Sys2Proof.Machine

def exec (i : Instr) (s : State) : Host.Outcome State Fault Refusal :=
  match i with
  | .lda addr => Sys2Proof.Machine.execLda addr s
  | .add addr => Sys2Proof.Machine.execAdd addr s
  | .sub addr => Sys2Proof.Machine.execSub addr s
  | .sta addr => Sys2Proof.Machine.execSta addr s
  | .jmp target => Sys2Proof.Machine.execJmp target s
  | .jmpc target => Sys2Proof.Machine.execJmpc target s
  | .jmpz target => Sys2Proof.Machine.execJmpz target s
  | .jmpn target => Sys2Proof.Machine.execJmpn target s
  | .jsr target => Sys2Proof.Machine.execJsr target s
  | .and addr => Sys2Proof.Machine.execAnd addr s
  | .or addr => Sys2Proof.Machine.execOr addr s
  | .mull addr => Sys2Proof.Machine.execMull addr s
  | .mulh addr => Sys2Proof.Machine.execMulh addr s
  | .ldi imm => Sys2Proof.Machine.execLdi imm s
  | .ldib imm => Sys2Proof.Machine.execLdib imm s
  | .addImm imm => Sys2Proof.Machine.execAddImm imm s
  | .subImm imm => Sys2Proof.Machine.execSubImm imm s
  | .pushImm imm => Sys2Proof.Machine.execPushImm imm s
  | .haltImm imm => Sys2Proof.Machine.execHaltImm imm s
  | .setp imm => Sys2Proof.Machine.execSetp imm s
  | .out => Sys2Proof.Machine.execOut s
  | .inc => Sys2Proof.Machine.execInc s
  | .not => Sys2Proof.Machine.execNot s
  | .rsh => Sys2Proof.Machine.execRsh s
  | .lsh => Sys2Proof.Machine.execLsh s
  | .take => Sys2Proof.Machine.execTake s
  | .move => Sys2Proof.Machine.execMove s
  | .pusha => Sys2Proof.Machine.execPusha s
  | .popa => Sys2Proof.Machine.execPopa s
  | .ret => Sys2Proof.Machine.execRet s
  | .halta => Sys2Proof.Machine.execHalta s
  | .refresh => Sys2Proof.Machine.execRefresh s
  | .halt => Sys2Proof.Machine.execHalt s
  | .multl => Sys2Proof.Machine.execMultl s

end Sys2Proof.Machine
end

