-- ==== Sys2Proof/Machine/ControlWord.lean ====
section
/-! DEFINITION. The 24 control lines, the ALU operation code of a control word, and which control words are admitted
(spec/41_control_and_tick.md R150 to R153). -/

namespace Sys2Proof.Machine

/-- The control lines, in the order of their bits (R150). -/
inductive ControlLine where
  | mi | ri | ro | ii | io | co | jp | ce | ai | ao | l1 | l2 | l3 | l4 | ht | bi | bo | oi | xi | si | so | sa | rf | pi
  deriving DecidableEq, Repr

/-- The bit of a control line in the control word (R150). -/
def lineBit : ControlLine → Nat
  | .mi => 0
  | .ri => 1
  | .ro => 2
  | .ii => 3
  | .io => 4
  | .co => 5
  | .jp => 6
  | .ce => 7
  | .ai => 8
  | .ao => 9
  | .l1 => 10
  | .l2 => 11
  | .l3 => 12
  | .l4 => 13
  | .ht => 14
  | .bi => 15
  | .bo => 16
  | .oi => 17
  | .xi => 18
  | .si => 19
  | .so => 20
  | .sa => 21
  | .rf => 22
  | .pi => 23

/-- Whether a control word asserts a line: `CW.XX` of R10. -/
def asserts (w : ControlWord) (l : ControlLine) : Bool := w.getLsbD (lineBit l)

/-- The ALU operation code `CW[13:10]`, L4 the most significant bit (R151). -/
def aluCode (w : ControlWord) : Nibble := w.extractLsb' 10 4

/-- The control word that asserts the lines of a list and selects an ALU operation code. -/
def wordOf (lines : List ControlLine) (op : Nibble := 0#4) : ControlWord :=
  lines.foldl (fun w l => w ||| BitVec.ofNat 24 (2 ^ lineBit l)) (op.setWidth 24 <<< 10)

/-! ## Admitted control words (R153), one check per condition -/

/-- At most one of a list of conditions holds. -/
def atMostOne (l : List Bool) : Bool := (l.filter id).length ≤ 1

/-- R153 condition 1: not RI with RO, not CE with JP. -/
def noOpposedStrobes (w : ControlWord) : Bool :=
  !(asserts w .ri && asserts w .ro) && !(asserts w .ce && asserts w .jp)

/-- The data bus is driven before the RAM cycle: by the ALU, A or B. -/
def dataDrivenEarly (w : ControlWord) : Bool := aluCode w != 0 || asserts w .ao || asserts w .bo

/-- R153 condition 2: at most one driver of the data bus. -/
def oneDataDriver (w : ControlWord) : Bool :=
  atMostOne [aluCode w != 0, asserts w .ao, asserts w .bo, asserts w .ro, asserts w .so && !asserts w .sa]

/-- R153 condition 3: at most one driver of the address bus. -/
def oneAddressDriver (w : ControlWord) : Bool :=
  atMostOne [asserts w .co, asserts w .io, asserts w .so && asserts w .sa]

/-- R153 condition 4: every reader has a driver that acts no later in the tick than the reader. -/
def readersDriven (w : ControlWord) : Bool :=
  (!asserts w .ri || dataDrivenEarly w)
  && (!(asserts w .si && !asserts w .sa) || dataDrivenEarly w || asserts w .ro)
  && (!(asserts w .ai || asserts w .bi || asserts w .ii || asserts w .xi || asserts w .oi || asserts w .pi)
      || dataDrivenEarly w || asserts w .ro || (asserts w .so && !asserts w .sa))
  && (!(asserts w .mi || (asserts w .si && asserts w .sa)) || asserts w .co || asserts w .io)
  && (!asserts w .jp || asserts w .co || asserts w .io || (asserts w .so && asserts w .sa))

/-- R153 condition 5: not a push with a pop. -/
def noPushWithPop (w : ControlWord) : Bool := !(asserts w .si && asserts w .so)

/-- R153 condition 6: the address latch and a memory access do not share a tick. -/
def noLatchWithAccess (w : ControlWord) : Bool := !(asserts w .mi && (asserts w .ro || asserts w .ri))

/-- R153 condition 7: the ALU operation code is none of 1101, 1110, 1111 (R134). -/
def aluCodeDefined (w : ControlWord) : Bool := aluCode w < 0xD#4

/-- R153 condition 8: HT stands alone. -/
def haltAlone (w : ControlWord) : Bool := !asserts w .ht || w == wordOf [.ht]

/-- R153: the non-zero control words the model gives a meaning. -/
def admitted (w : ControlWord) : Bool :=
  noOpposedStrobes w && oneDataDriver w && oneAddressDriver w && readersDriven w && noPushWithPop w
  && noLatchWithAccess w && aluCodeDefined w && haltAlone w

end Sys2Proof.Machine
end

