-- ==== Sys2Proof/Machine/Microcode.lean ====
section
/-! DEFINITION. The microcode ROM: its index, the reference micro-programs and `ROM_REF`
(spec/41_control_and_tick.md R160; spec/42_microcode_rom.md R200 to R244). Words are written as the lines they assert;
Laws/Microcode.lean proves each equal to the number the spec prints beside it. -/

namespace Sys2Proof.Machine

/-- A microcode ROM: 2^14 entries of 24 bits (R200), some of which may be undefined (R204, R244). A parameter of the tick. -/
abbrev Rom := RomIndex → Option ControlWord

/-- The ROM index (R160): STEP in bits 2..0, IR in 10..3, CF in 11, ZF in 12, SF in 13. -/
def indexOf (microStep : BitVec 3) (ir : Byte) (cf zf sf : Bool) : RomIndex :=
  BitVec.ofBool sf ++ BitVec.ofBool zf ++ BitVec.ofBool cf ++ ir ++ microStep

/-- The step of an index (R201). -/
def indexStep (idx : RomIndex) : BitVec 3 := idx.extractLsb' 0 3

/-- The opcode byte of an index (R201). -/
def indexByte (idx : RomIndex) : Byte := idx.extractLsb' 3 8

/-! ## Micro-programs -/

/-- The fetch pair, steps 0 and 1 of every frame (R205). -/
def fetchPair : List ControlWord := [wordOf [.co, .mi], wordOf [.ro, .ii, .ce]]

/-- Steps 2 and 3 of an addressed opcode (R206): the second byte into IR2. -/
def operandPair : List ControlWord := [wordOf [.co, .mi], wordOf [.ro, .xi, .ce]]

/-- Steps 0 to 4 of an addressed data opcode (R206): MAR at the operand address. -/
def toMemoryOperand : List ControlWord := fetchPair ++ operandPair ++ [wordOf [.io, .mi]]

/-- Addressed ALU opcodes (R212): the operand into B, then the operation with its result into A. -/
def memoryAlu (op : AluOp) : List ControlWord :=
  toMemoryOperand ++ [wordOf [.ro, .bi], wordOf [.ai] (aluOpCode op)]

/-- JMP, and a conditional branch taken (R218, R219). -/
def jumpProgram : List ControlWord := fetchPair ++ operandPair ++ [wordOf [.io, .jp]]

/-- A conditional branch: taken when its flag is set, else PC past the operand (R219, R220, R221). -/
def branchProgram (flag : Bool) : List ControlWord :=
  if flag then jumpProgram else fetchPair ++ [wordOf [.ce]]

/-- Immediate opcodes (R206): step 3 sends the operand byte to a destination. -/
def immediateTo (dest : ControlLine) : List ControlWord := fetchPair ++ [wordOf [.co, .mi], wordOf [.ro, dest, .ce]]

/-- The sequences of the addressed classes under a flag state (R210 to R222). -/
def addressedPrograms (cf zf sf : Bool) : List (Nibble × List ControlWord) :=
  [(0x1#4, toMemoryOperand ++ [wordOf [.ro, .ai]]),
   (0x2#4, memoryAlu .add),
   (0x3#4, memoryAlu .sub),
   (0x4#4, toMemoryOperand ++ [wordOf [.ao, .ri]]),
   (0x5#4, jumpProgram),
   (0x6#4, branchProgram cf),
   (0x7#4, branchProgram zf),
   (0x8#4, branchProgram sf),
   (0x9#4, fetchPair ++ operandPair ++ [wordOf [.co, .si, .sa], wordOf [.io, .jp]]),
   (0xA#4, memoryAlu .and),
   (0xB#4, memoryAlu .or),
   (0xC#4, memoryAlu .mull),
   (0xD#4, memoryAlu .mulh)]

/-- The sequences of the immediate opcodes (R223 to R229). -/
def immediatePrograms : List (Nibble × List ControlWord) :=
  [(0x0#4, immediateTo .ai),
   (0x1#4, immediateTo .bi),
   (0x2#4, immediateTo .bi ++ [wordOf [.ai] (aluOpCode .add)]),
   (0x3#4, immediateTo .bi ++ [wordOf [.ai] (aluOpCode .sub)]),
   (0x4#4, immediateTo .si),
   (0x5#4, immediateTo .oi ++ [wordOf [.ht]]),
   (0x6#4, immediateTo .pi)]

/-- The sequences of the nullary opcodes (R230 to R243). -/
def nullaryPrograms : List (Nibble × List ControlWord) :=
  [(0x0#4, fetchPair ++ [wordOf [.ao, .oi]]),
   (0x1#4, fetchPair ++ [wordOf [.ai] (aluOpCode .inc)]),
   (0x2#4, fetchPair ++ [wordOf [.ai] (aluOpCode .not)]),
   (0x3#4, fetchPair ++ [wordOf [.ai] (aluOpCode .rsh)]),
   (0x4#4, fetchPair ++ [wordOf [.ai] (aluOpCode .lsh)]),
   (0x5#4, fetchPair ++ [wordOf [.bo, .ai]]),
   (0x6#4, fetchPair ++ [wordOf [.ao, .bi]]),
   (0x7#4, fetchPair ++ [wordOf [.ao, .si]]),
   (0x8#4, fetchPair ++ [wordOf [.so, .ai]]),
   (0x9#4, fetchPair ++ [wordOf [.so, .sa, .jp]]),
   (0xA#4, fetchPair ++ [wordOf [.ao, .oi], wordOf [.ht]]),
   (0xB#4, fetchPair ++ [wordOf [.rf]]),
   (0xC#4, fetchPair ++ [wordOf [.ht]]),
   (0xD#4, fetchPair ++ [wordOf [.ai] (aluOpCode .mull)])]

/-- The sequence of an opcode byte under a flag state; `none` for a reserved byte (R207). -/
def microProgram (ir : Byte) (cf zf sf : Bool) : Option (List ControlWord) :=
  if highNibble ir = 0xF#4 then lookupNibble (lowNibble ir) nullaryPrograms
  else if highNibble ir = 0xE#4 then lookupNibble (lowNibble ir) immediatePrograms
  else lookupNibble (highNibble ir) (addressedPrograms cf zf sf)

/-- One word of a frame (R207): the sequence, then zero words; a reserved byte has the fetch pair and is undefined from
step 2 on (R244). -/
def microWord (microStep : BitVec 3) (ir : Byte) (cf zf sf : Bool) : Option ControlWord :=
  match microProgram ir cf zf sf with
  | some sequence => some (sequence.getD microStep.toNat 0)
  | none => fetchPair[microStep.toNat]?

/-- The reference ROM (R207). -/
def romRef : Rom := fun idx =>
  microWord (indexStep idx) (indexByte idx) (idx.getLsbD 11) (idx.getLsbD 12) (idx.getLsbD 13)

end Sys2Proof.Machine
end

