-- ==== Sys2Proof/Machine/Tick.lean ====
section
/-! DEFINITION. The tick: the hardware itself, one control word at a time (spec/41_control_and_tick.md R160 to R184), and the
runs of ticks that make an instruction (R183). Where the two levels of description could differ this one governs (R11). -/

namespace Sys2Proof.Machine

/-- A tick under way: the state and the two buses, `none` while nothing drives a bus (R37, R166). -/
structure Cycle where
  st : State
  data : Option Byte
  address : Option Word
  deriving DecidableEq, Repr

/-- Under a line, a write that takes the data bus; no outcome if nothing drives the bus (D30). -/
def fromData (line : Bool) (f : Byte → State → State) (c : Cycle) : Option Cycle :=
  if line then c.data.map (fun v => { c with st := f v c.st }) else some c

/-- Under a line, a write that takes the address bus; no outcome if nothing drives the bus (D30). -/
def fromAddress (line : Bool) (f : Word → State → State) (c : Cycle) : Option Cycle :=
  if line then c.address.map (fun v => { c with st := f v c.st }) else some c

/-- Step 3, the ALU (R165): with a code other than 0000 it drives the data bus and writes the flags; a reserved code has no
outcome (R134). -/
def aluStage (w : ControlWord) (c : Cycle) : Option Cycle :=
  if aluCode w = 0 then some c
  else (aluOpOfCode (aluCode w)).map (fun op =>
    { c with data := some (aluResult op c.st.a c.st.b), st := setFlags op c.st.a c.st.b c.st })

/-- Step 4, the drivers CO, AO, BO, IO (R167 to R170). -/
def driveStage (w : ControlWord) (c : Cycle) : Cycle :=
  let c := if asserts w .co then { c with address := some c.st.pc } else c
  let c := if asserts w .ao then { c with data := some c.st.a } else c
  let c := if asserts w .bo then { c with data := some c.st.b } else c
  if asserts w .io then { c with address := some (busOperand c.st) } else c

/-- Step 5, the RAM cycle MI, RO, RI (R171 to R173): the access uses MAR as it was before this stage (R184). -/
def ramStage (w : ControlWord) (c : Cycle) : Option Cycle :=
  let mar0 := c.st.mar
  (fromAddress (asserts w .mi) (fun v s => { s with mar := v }) c).bind fun c =>
  let c := if asserts w .ro then { c with data := some (readByte c.st mar0) } else c
  fromData (asserts w .ri) (fun v s => writeByte mar0 v s) c

/-- A pop onto the bus that SA selects (R175). -/
def popStage (w : ControlWord) (c : Cycle) : Cycle :=
  if asserts w .so then
    if asserts w .sa then { c with address := some (topCell c.st), st := dropCell c.st }
    else { c with data := some ((topCell c.st).extractLsb' 0 8), st := dropCell c.st }
  else c

/-- Step 6, the stack cycle SI, SO with SA (R174, R175). -/
def stackStage (w : ControlWord) (c : Cycle) : Option Cycle :=
  (fromAddress (asserts w .si && asserts w .sa) pushWord c).bind fun c =>
  (fromData (asserts w .si && !asserts w .sa) pushByte c).map (popStage w)

/-- Step 7, the register writes AI, BI, II, XI, OI and the screen pointer's PI (R176, R177). -/
def registerStage (w : ControlWord) (c : Cycle) : Option Cycle :=
  (fromData (asserts w .ai) (fun v s => { s with a := v }) c).bind fun c =>
  (fromData (asserts w .bi) (fun v s => { s with b := v }) c).bind fun c =>
  (fromData (asserts w .ii) (fun v s => { s with ir := v }) c).bind fun c =>
  (fromData (asserts w .xi) (fun v s => { s with ir2 := v }) c).bind fun c =>
  (fromData (asserts w .oi) writeOut c).bind fun c =>
  fromData (asserts w .pi) emitPointer c

/-- Step 8, the program counter's CE and JP (R178, R179). -/
def pcStage (w : ControlWord) (c : Cycle) : Option Cycle :=
  let c := if asserts w .ce then { c with st := { c.st with pc := c.st.pc + 1 } } else c
  fromAddress (asserts w .jp) (fun v s => { s with pc := v }) c

/-- Step 9, the refresh request RF (R180). -/
def refreshStage (w : ControlWord) (c : Cycle) : Cycle :=
  if asserts w .rf then { c with st := emitRefresh c.st } else c

/-- Steps 3 to 9 of a tick in their order (R181, R182); no outcome where the word reads a bus that nothing drives. -/
def datapath (w : ControlWord) (s : State) : Option State :=
  (aluStage w ⟨s, none, none⟩).bind fun c =>
  (ramStage w (driveStage w c)).bind fun c =>
  (stackStage w c).bind fun c =>
  (registerStage w c).bind fun c =>
  (pcStage w c).map fun c => (refreshStage w c).st

/-- The ROM index of a state (R160). -/
def romIndex (s : State) : RomIndex := indexOf s.microStep s.ir s.cf s.zf s.sf

/-- Step 1 of a tick, the control unit, on the word it read (R161, R162, R163). -/
def controlStep (w : ControlWord) (s : State) : State :=
  if w = 0 then { s with cw := 0, microStep := 0 } else { s with cw := w, microStep := s.microStep + 1 }

/-- A tick on the word it read: the refusal check, then the halt check, then the datapath (R153, R164, R184, R343). -/
def tickWord (w : ControlWord) (s : State) : Host.Outcome State Fault Refusal :=
  if w ≠ 0 ∧ admitted w = false then .refused (.notAdmitted w)
  else if asserts w .ht || s.hostStop then .next { controlStep w s with halted := true }
  else match datapath w (controlStep w s) with
    | some t => .next t
    | none => .refused (.undrivenBus w)

/-- One tick of the machine with a given ROM (R184). A machine that has halted takes no tick (R38); an entry the ROM leaves
undefined is refused (R244). The outcome *halted* is the field of the next state. -/
def tick (rom : Rom) (s : State) : Host.Outcome State Fault Refusal :=
  if s.halted then .fault .halted
  else match rom (romIndex s) with
    | none => .refused (.reservedOpcode s.ir)
    | some w => tickWord w s

/-- A number of ticks, stopping at the first that gives no next state. -/
def ticks (rom : Rom) : Nat → State → Host.Outcome State Fault Refusal
  | 0, s => .next s
  | n + 1, s =>
    match tick rom s with
    | .next t => ticks rom n t
    | .fault r => .fault r
    | .refused r => .refused r

/-- Ticks, at least one, up to the next instruction boundary or the halt (R183), at most a given number. -/
def toBoundary (rom : Rom) : Nat → State → Host.Outcome State Fault Refusal
  | 0, s => .next s
  | n + 1, s =>
    match tick rom s with
    | .next t => if t.halted || t.microStep == 0 then .next t else toBoundary rom n t
    | .fault r => .fault r
    | .refused r => .refused r

/-- The rest of the current instruction, or a whole one from a boundary: no frame has more than eight micro-steps (R163,
R201), so eight ticks always reach its end. -/
def finishInstruction (s : State) : Host.Outcome State Fault Refusal := toBoundary romRef 8 s

end Sys2Proof.Machine
end

