-- ==== Sys2Proof/Machine/Step.lean ====
section
/-! DEFINITION. One step of the machine: one whole instruction from an instruction boundary (spec/00_scope.md R11, the
instruction level), and from any other state the ticks up to the next boundary (the tick level). Log entry 7. -/

namespace Sys2Proof.Machine

/-- One step. A halted machine takes no further tick (R38). At a boundary with the host's line clear, the instruction at PC is
fetched and executed, or refused if its first byte is reserved (R100, R102). Otherwise, in the middle of an instruction or
with the host stopping the run (R164), ticks are taken up to the next boundary or the halt. -/
def step (s : State) : Host.Outcome State Fault Refusal :=
  if s.halted then .fault .halted
  else if s.hostStop || s.microStep != 0 then finishInstruction s
  else match fetched s with
    | some i => exec i s
    | none => .refused (.reservedOpcode (readByte s s.pc))

/-- The state with an instruction, given as a word numbered as spec/opcode_table.json numbers it, where the next step fetches
(log entries 8 and 9). -/
def State.withFetchWord (s : State) (nbits w : Nat) : State :=
  placeBytes (tableBytes nbits w).1 (tableBytes nbits w).2 s

end Sys2Proof.Machine
end

