-- ==== Sys2Proof/Machine/HostSide.lean ====
section
/-! DEFINITION. What the host does to CORE and sees of it: reset with its image, its stop line, its loop of ticks under a cap,
and the screen's view of RAM (spec/60_exceptions.md R346 to R352; spec/70_reset_and_hazards.md R370 to R374). -/

namespace Sys2Proof.Machine

/-- `INIT`: the values reset leaves unspecified (R7, R42, D18, U1). -/
structure Init where
  a : Byte
  b : Byte
  ir : Byte
  ir2 : Byte
  out : Byte
  mar : Word
  cf : Bool
  zf : Bool
  sf : Bool
  stk : Vector Word 256
  deriving DecidableEq, Repr

/-- The zero values that `State.reset` takes (log entry 1). -/
def Init.zero : Init := ⟨0, 0, 0, 0, 0, 0, false, false, false, Vector.replicate 256 0⟩

/-- `IMAGE` as cells: its bytes from an address on, in canonical form; nothing at or past 4096, and 0 where the image covers
no byte (R370, D18). -/
def Memory.ofBytes : Nat → List Byte → Memory
  | _, [] => []
  | x, v :: rest =>
    if x < 4096 then
      if v = 0 then Memory.ofBytes (x + 1) rest else (x, v) :: Memory.ofBytes (x + 1) rest
    else []

/-- Reset by the host with its image (R42, R370). The screen device's pointer and the model's own fields start as in
`State.reset` (log entries 4, 6); so does the host's line, to which the spec gives no level at reset (false, DESIGN CHOICE, log
entry 15). -/
def State.boot (init : Init) (image : List Byte) : State where
  a := init.a
  b := init.b
  ir := init.ir
  ir2 := init.ir2
  out := init.out
  pc := 0
  cf := init.cf
  zf := init.zf
  sf := init.sf
  mar := init.mar
  sp := 0
  stk := init.stk
  microStep := 0
  cw := 0
  ram := Memory.ofBytes 0 image
  halted := false
  hostStop := false
  screenPtr := 0
  screenEvents := []
  outTrace := []
  freeCount := 0

/-- The host drives its stop line, between ticks (R348, D23). -/
def setHostStop (line : Bool) (s : State) : State := { s with hostStop := line }

/-- The host's loop under a cap that is a number: ticks until one returns *halted* or the cap is reached (R347, R372, R374). -/
def hostRun (rom : Rom) : Nat → State → Host.Outcome State Fault Refusal
  | 0, s => .next s
  | cap + 1, s =>
    match tick rom s with
    | .next t => if t.halted then .next t else hostRun rom cap t
    | .fault r => .fault r
    | .refused r => .refused r

/-- An outcome of a tick after which the host calls Tick no more: *halted*, or no next state (R346, R374). -/
def endsRun : Host.Outcome State Fault Refusal → Bool
  | .next t => t.halted
  | .fault _ => true
  | .refused _ => true

/-- The host's loop under `TICK_CAP`, a natural number or none (R7, R347, D26), gives this outcome. With none it is that of the
tick that ends the run, however many ticks come before it; a run that never ends gives no outcome, so this is a relation. -/
def HostLoop (rom : Rom) (cap : Option Nat) (s : State) (o : Host.Outcome State Fault Refusal) : Prop :=
  match cap with
  | some n => hostRun rom n s = o
  | none => endsRun o = true ∧ ∃ n, hostRun rom (n + 1) s = o

/-- The 256 bytes 0x400..0x4FF that the screen device reads when RF asks for a redraw (R69, R348, R352, C6). -/
def screenWindow (s : State) : List Byte := bytesFrom s 0x400 256

end Sys2Proof.Machine
end

