-- ==== Sys2Proof/WellFormed.lean ====
section
/-! DEFINITION. What is well formed: an instruction's fields and bytes (spec/30_encoding.md R90, R94, R100), and a microcode ROM
(spec/42_microcode_rom.md R204). A control word's check is `Machine.admitted` (Machine/ControlWord.lean, R153).
An operand cannot be out of range: its type is its width (R95, R96). -/

namespace Sys2Proof

/-- Fields name an instruction: the addressed class is 0x1..0xD, the immediate opcode 0xE0..0xE6, the nullary one
0xF0..0xFD (R90, R100). -/
def Fields.wellFormed : Fields → Bool
  | .addressed cls _ => decide (0x1#4 ≤ cls) && decide (cls ≤ 0xD#4)
  | .immediate n _ => decide (n ≤ 0x6#4)
  | .nullary n => decide (n ≤ 0xD#4)

/-- The 27 first-byte values that name no instruction (R100). -/
def reservedByte (b0 : Byte) : Bool :=
  decide (b0 ≤ 0x0F#8) || (decide (0xE7#8 ≤ b0) && decide (b0 ≤ 0xEF#8)) || decide (0xFE#8 ≤ b0)

/-- An instruction is well formed: its fields name an instruction, its first byte is not reserved, and it has as many bytes
as its first byte says (R94). -/
def Instr.wellFormed (i : Instr) : Bool :=
  (fieldsOf i).wellFormed && !reservedByte (firstByte i) && (encode i).length == lengthOfByte (firstByte i)

namespace Machine

/-- R204 (a) and (b): every frame begins with the fetch pair, and every non-zero word is admitted. -/
def Rom.WellFormed (rom : Rom) : Prop :=
  (∀ ir cf zf sf, rom (indexOf 0 ir cf zf sf) = some 0x000021#24 ∧ rom (indexOf 1 ir cf zf sf) = some 0x00008C#24)
  ∧ ∀ idx w, rom idx = some w → w ≠ 0 → admitted w = true

end Machine

end Sys2Proof
end

