-- ==== Sys2Proof/Safety.lean ====
section
/-! DEFINITION. The terms claims are stated in: an instruction boundary of a running machine, an instruction standing at PC, a
run of ticks that is an instruction, the invariant, and what a program cannot see. -/

namespace Sys2Proof.Machine

/-- An instruction boundary of a machine that runs: the next tick is a fetch (R183, R38, R164). -/
abbrev ReadyToFetch (s : State) : Prop := s.halted = false ∧ s.hostStop = false ∧ s.microStep = 0

/-- The bytes of an instruction stand at PC and the following addresses (R65, R102). -/
abbrev PlacedAtPc (i : Instr) (s : State) : Prop := bytesFrom s s.pc (encode i).length = encode i

/-- From a state, an instruction is exactly n ticks of the reference machine: they give what exec gives, and before the last
of them no boundary and no halt is reached (R183, R389). -/
def RunsInTicks (n : Nat) (i : Instr) (s : State) : Prop :=
  ticks romRef n s = exec i s
  ∧ ∀ k, 0 < k → k < n → ∃ t, ticks romRef k s = .next t ∧ t.microStep ≠ 0 ∧ t.halted = false

/-- An instruction has these bytes, and where they stand at PC of a machine ready to fetch, one step is exec of the
instruction and takes n ticks of the tick-level machine (R11, R389). -/
def RunsAs (i : Instr) (bytes : List Byte) (n : Nat) (s : State) : Prop :=
  encode i = bytes ∧ (ReadyToFetch s → PlacedAtPc i s → step s = exec i s ∧ RunsInTicks n i s)

/-- The machine stands at a boundary with its control lines clear, or it has halted (R34, R162, R183, R346). -/
abbrev AtRest (s : State) : Prop := s.halted = true ∨ (s.microStep = 0 ∧ s.cw = 0)

/-- The newest screen-pointer byte of a list of events, the newest first. -/
def latestPointer : List ScreenEvent → Option Byte
  | [] => none
  | .pi v :: _ => some v
  | .rf :: rest => latestPointer rest

/-- The traces agree with the registers they follow: OUT holds the last value traced (R25), the screen pointer the last byte
offered to it (R353). -/
abbrev TracesAgree (s : State) : Prop :=
  (∀ v, s.outTrace.head? = some v → s.out = v) ∧ (∀ v, latestPointer s.screenEvents = some v → s.screenPtr = v)

/-- The invariant: RAM in its canonical form within 4096 bytes, the machine at rest between steps, the traces in agreement. -/
structure StateInv (s : State) : Prop where
  ram : Memory.wf s.ram = true
  rest : AtRest s
  traces : TracesAgree s

/-- A state with the registers no program can observe blanked: IR, IR2, MAR and CW (R40). -/
def forgetHidden (s : State) : State := { s with ir := 0, ir2 := 0, mar := 0, cw := 0 }

/-- An outcome with its next state mapped. -/
def mapNext (f : State → State) : Host.Outcome State Fault Refusal → Host.Outcome State Fault Refusal
  | .next s => .next (f s)
  | .fault r => .fault r
  | .refused r => .refused r

/-- A run is safe: it gives a next state, no fault and no refusal. -/
abbrev Answers (o : Host.Outcome State Fault Refusal) : Prop := ∃ t, o = .next t

end Sys2Proof.Machine
end

