-- ==== Sys2Proof/Certificates/Slice0/Obligations.lean ====
section
/-! DEFINITION. The statements for the provers. Each cites the rules of spec/ it formalises in its docstring and in
OBLIGATIONS.json. A result is stated with the arithmetic of natural numbers where the spec states it so, and never through the
definition the meaning itself uses. A statement about a free value (`Config.mullCf`, `Config.freeNibble`) holds for every
value of it. Every statement about an instruction's bytes or ticks rests on the opcode map and the reference ROM, which the
source does not give and the spec chooses (spec/92_eei_decisions.md D1, D2; log entry 10); a docstring names any other decision
of the spec that its statement rests on. -/

open Sys2Proof Sys2Proof.Machine

/-! ## Encoding and decoding -/

/-- R65, R91 to R93, R102: decoding the bytes of any instruction (every term of Instr is well formed, `Laws.Encoding`),
whatever follows them, gives that instruction with every operand as it was, and leaves what follows. The opcode map is the
spec's decision D1. -/
def Obligations.DecodeOfEncodeIsIdentity : Prop :=
  ∀ (i : Instr) (rest : List Byte), decode (encode i ++ rest) = .ok (i, rest)

/-- R102: a byte list that decodes is the encoding of what it decodes to, then the bytes left over: no two encodings of one
instruction. -/
def Obligations.DecodedBytesAreTheEncoding : Prop :=
  ∀ (bytes rest : List Byte) (i : Instr), decode bytes = .ok (i, rest) → bytes = encode i ++ rest

/-- R100: the first bytes that name no instruction are exactly the 27 reserved values, whatever the second byte. The refusal
of these bytes is the spec's decision D19. -/
def Obligations.ReservedBytesAreExactlyTheUndecodable : Prop :=
  (∀ b0 b1 : Byte, decodePair b0 b1 = none ↔
    b0.toNat ≤ 0x0F ∨ (0xE7 ≤ b0.toNat ∧ b0.toNat ≤ 0xEF) ∨ b0.toNat = 0xFE ∨ b0.toNat = 0xFF)
  ∧ ((List.range 256).filter (fun n => (decodePair (BitVec.ofNat 8 n) 0).isNone)).length = 27

/-- spec/95_test_vectors.md section 2: words written out from the encodings decode to the instructions they stand for. -/
def Obligations.SpecWordsDecode : Prop :=
  decodeTableWord 16 0x1ABC = some (.lda 0xABC) ∧ decodeTableWord 16 0x44FF = some (.sta 0x4FF)
  ∧ decodeTableWord 16 0x7F00 = some (.jmpz 0xF00) ∧ decodeTableWord 16 0xE305 = some (.subImm 5)
  ∧ decodeTableWord 8 0xF9 = some .ret ∧ decodeTableWord 8 0xFD = some .multl ∧ decodeTableWord 8 0xFE = none

/-! ## The step -/

/-- R102, R183: at an instruction boundary of a running machine whose bytes at PC decode to an instruction, one step is exec
of that instruction at that state; the step adds nothing around exec, which itself moves PC. -/
def Obligations.StepRunsDecodedInstruction : Prop :=
  ∀ (s : State) (i : Instr) (rest : List Byte), ReadyToFetch s → decode (bytesFrom s s.pc 2) = .ok (i, rest) →
    step s = exec i s

/-- R11, R183: the step is the tick-level machine with the reference ROM, run to its next instruction boundary or halt, at
every state, the refusals and the fault included. What a step does in the middle of an instruction or with the host's line
set is the model's choice (log entry 7), and so is the fault of a halted machine (log entry 11). -/
def Obligations.StepIsTicksToTheBoundary : Prop :=
  ∀ s : State, step s = toBoundary romRef 8 s

/-- R100, R244: an instruction whose first byte is reserved is refused; in the tick-level machine the refusal is that of the
third tick, the one at STEP = 2. The spec's decision D19. -/
def Obligations.ReservedOpcodesAreRefused : Prop :=
  ∀ s : State, ReadyToFetch s → reservedByte (readByte s s.pc) = true →
    step s = .refused (.reservedOpcode (readByte s s.pc))
    ∧ (∃ t, ticks romRef 2 s = .next t ∧ t.microStep = 2)
    ∧ ticks romRef 3 s = .refused (.reservedOpcode (readByte s s.pc))

/-- R340: no instruction can fail, in any state, and nothing faults but a machine that has already halted. The
absence of exceptions is the spec's decision D21; the fault of a halted machine is the model's (log entry 11). -/
def Obligations.NoInstructionCanFail : Prop :=
  (∀ (i : Instr) (s : State), Answers (exec i s)) ∧ ∀ (s : State) (r : Fault), step s = .fault r → s.halted = true

/-- R38, R346: once HALTED is true no further tick is taken, with any ROM: the spec's decision D17. That a tick asked of a halted
machine is a fault is the model's (log entry 11). -/
def Obligations.HaltedMachineTakesNoTick : Prop :=
  ∀ (rom : Rom) (s : State), s.halted = true → tick rom s = .fault .halted ∧ step s = .fault .halted

/-- R34, R35, R162, R183, R25, R353: every step that answers keeps the invariant: RAM in its canonical form within 4096
bytes, the machine at a boundary or halted, OUT and the screen pointer at the newest of their traces. The canonical form, the
traces and the screen pointer's place in the state are the model's (log entries 2, 6). -/
def Obligations.StepKeepsTheInvariant : Prop :=
  ∀ s t : State, StateInv s → step s = .next t → StateInv t

/-- The invariant holds after reset with any INIT and any IMAGE, and at the model's own State.reset (log entries 1 and 2). -/
def Obligations.ResetStatesMeetTheInvariant : Prop :=
  (∀ (init : Init) (image : List Byte), StateInv (State.boot init image)) ∧ StateInv State.reset

/-- R42, R370: what reset leaves, for every INIT and every IMAGE: PC, SP, STEP and CW zero, HALTED false, RAM the image with 0
where it covers no byte, and everything else INIT's. Every value but PC's is the spec's decision D17 or D18. -/
def Obligations.ResetLeavesTheStatedValues : Prop :=
  ∀ (init : Init) (image : List Byte),
    let s := State.boot init image
    s.pc = 0 ∧ s.sp = 0 ∧ s.microStep = 0 ∧ s.cw = 0 ∧ s.halted = false
    ∧ (∀ x : Word, readByte s x = image.getD x.toNat 0)
    ∧ s.a = init.a ∧ s.b = init.b ∧ s.ir = init.ir ∧ s.ir2 = init.ir2 ∧ s.out = init.out ∧ s.mar = init.mar
    ∧ s.cf = init.cf ∧ s.zf = init.zf ∧ s.sf = init.sf ∧ s.stk = init.stk

/-- R40: the registers IR, IR2, MAR and CW, which no program can observe, do not affect a step from a boundary: states equal
but for them give outcomes equal but for them. For PUSH# and PUSHA the two cells agree in bits 11..8 only because the model
draws the free nibble from a counter that both states share (log entry 4, DESIGN CHOICE). -/
def Obligations.HiddenRegistersDoNotMatter : Prop :=
  ∀ s t : State, forgetHidden s = forgetHidden t → s.microStep = 0 →
    mapNext forgetHidden (step s) = mapNext forgetHidden (step t)

/-! ## The instructions: the addressed data family (R250)

In each statement of an instruction: its bytes, its whole effect as the exact next state (every field not named is
unchanged), and that, standing at PC of a machine ready to fetch, one step and so many ticks of the tick-level machine have
that effect. The opcode byte is the spec's decision D1, the micro-program and the ticks its decision D2 (log entry 10), except
the bytes 0x60, 0x70, 0x80 of the branches; the wrap of PC is its decision D20 (log entry 13). -/

/-- R250, R251: LDA; its byte and ticks are the spec's decisions D1, D2 (log entry 10). -/
def Obligations.LdaLoadsTheByte : Prop :=
  ∀ (addr : Word) (s : State),
    exec (.lda addr) s = .next { s with
      ir := 0x1#4 ++ addr.extractLsb' 8 4, ir2 := addr.extractLsb' 0 8, pc := s.pc + 2, mar := addr,
      a := readByte s addr, microStep := 0, cw := 0 }
    ∧ RunsAs (.lda addr) [0x1#4 ++ addr.extractLsb' 8 4, addr.extractLsb' 0 8] 7 s

/-- R250, R252: STA; its byte and ticks are the spec's decisions D1, D2 (log entry 10). The next state, but for RAM, is given whole; RAM holds A at the operand address and every other byte is as
before. -/
def Obligations.StaStoresTheByte : Prop :=
  ∀ (addr : Word) (s : State),
    (∃ t, exec (.sta addr) s = .next t
      ∧ t = { s with
          ir := 0x4#4 ++ addr.extractLsb' 8 4, ir2 := addr.extractLsb' 0 8, pc := s.pc + 2, mar := addr,
          ram := t.ram, microStep := 0, cw := 0 }
      ∧ readByte t addr = s.a ∧ ∀ x : Word, x ≠ addr → readByte t x = readByte s x)
    ∧ RunsAs (.sta addr) [0x4#4 ++ addr.extractLsb' 8 4, addr.extractLsb' 0 8] 7 s

/-- R250, R253: ADD; its byte, its two steps and its ticks are the spec's decisions D1, D2 (log entry 10). -/
def Obligations.AddAddsTheMemoryByte : Prop :=
  ∀ (addr : Word) (s : State),
    let sum := s.a.toNat + (readByte s addr).toNat
    exec (.add addr) s = .next { s with
      ir := 0x2#4 ++ addr.extractLsb' 8 4, ir2 := addr.extractLsb' 0 8, pc := s.pc + 2, mar := addr,
      b := readByte s addr, a := BitVec.ofNat 8 sum,
      cf := decide (256 ≤ sum), zf := decide (sum % 256 = 0), sf := decide (128 ≤ sum % 256), microStep := 0, cw := 0 }
    ∧ RunsAs (.add addr) [0x2#4 ++ addr.extractLsb' 8 4, addr.extractLsb' 0 8] 8 s

/-- R254: SUB. CF is 1 exactly when there is no borrow (the spec's decision D7), ZF exactly when the operands are
equal. -/
def Obligations.SubSubtractsTheMemoryByte : Prop :=
  ∀ (addr : Word) (s : State),
    let m := readByte s addr
    let difference := (s.a.toNat + 256 - m.toNat) % 256
    exec (.sub addr) s = .next { s with
      ir := 0x3#4 ++ addr.extractLsb' 8 4, ir2 := addr.extractLsb' 0 8, pc := s.pc + 2, mar := addr,
      b := m, a := BitVec.ofNat 8 difference,
      cf := decide (m.toNat ≤ s.a.toNat), zf := decide (s.a = m), sf := decide (128 ≤ difference),
      microStep := 0, cw := 0 }
    ∧ RunsAs (.sub addr) [0x3#4 ++ addr.extractLsb' 8 4, addr.extractLsb' 0 8] 8 s

/-- R255, R256: AND and OR write ZF and SF and leave CF (the spec's decision D6). -/
def Obligations.AndOrCombineTheMemoryByte : Prop :=
  ∀ (addr : Word) (s : State),
    let conj := s.a &&& readByte s addr
    let disj := s.a ||| readByte s addr
    exec (.and addr) s = .next { s with
      ir := 0xA#4 ++ addr.extractLsb' 8 4, ir2 := addr.extractLsb' 0 8, pc := s.pc + 2, mar := addr,
      b := readByte s addr, a := conj, zf := decide (conj.toNat = 0), sf := decide (128 ≤ conj.toNat),
      microStep := 0, cw := 0 }
    ∧ RunsAs (.and addr) [0xA#4 ++ addr.extractLsb' 8 4, addr.extractLsb' 0 8] 8 s
    ∧ exec (.or addr) s = .next { s with
      ir := 0xB#4 ++ addr.extractLsb' 8 4, ir2 := addr.extractLsb' 0 8, pc := s.pc + 2, mar := addr,
      b := readByte s addr, a := disj, zf := decide (disj.toNat = 0), sf := decide (128 ≤ disj.toNat),
      microStep := 0, cw := 0 }
    ∧ RunsAs (.or addr) [0xB#4 ++ addr.extractLsb' 8 4, addr.extractLsb' 0 8] 8 s

/-- R257, R258: MULL gives the low byte of the unsigned product and the free carry `MULL_CF` of the operands; MULH gives the
high byte and leaves CF. The open carry, the unsigned product and CF after MULH are the spec's decisions D9, D10, D6. -/
def Obligations.MullMulhMultiplyByTheMemoryByte : Prop :=
  ∀ (addr : Word) (s : State),
    let product := s.a.toNat * (readByte s addr).toNat
    exec (.mull addr) s = .next { s with
      ir := 0xC#4 ++ addr.extractLsb' 8 4, ir2 := addr.extractLsb' 0 8, pc := s.pc + 2, mar := addr,
      b := readByte s addr, a := BitVec.ofNat 8 (product % 256), cf := Config.mullCf s.a (readByte s addr),
      zf := decide (product % 256 = 0), sf := decide (128 ≤ product % 256), microStep := 0, cw := 0 }
    ∧ RunsAs (.mull addr) [0xC#4 ++ addr.extractLsb' 8 4, addr.extractLsb' 0 8] 8 s
    ∧ exec (.mulh addr) s = .next { s with
      ir := 0xD#4 ++ addr.extractLsb' 8 4, ir2 := addr.extractLsb' 0 8, pc := s.pc + 2, mar := addr,
      b := readByte s addr, a := BitVec.ofNat 8 (product / 256),
      zf := decide (product / 256 = 0), sf := decide (128 ≤ product / 256), microStep := 0, cw := 0 }
    ∧ RunsAs (.mulh addr) [0xD#4 ++ addr.extractLsb' 8 4, addr.extractLsb' 0 8] 8 s

/-! ## The instructions: control transfer -/

/-- R270: JMP; the direct jump is conflict C3 and the spec's decision D2, the byte D1 (log entry 10). -/
def Obligations.JmpGoesToTheTarget : Prop :=
  ∀ (target : Word) (s : State),
    exec (.jmp target) s = .next { s with
      ir := 0x5#4 ++ target.extractLsb' 8 4, ir2 := target.extractLsb' 0 8, pc := target, mar := s.pc + 1,
      microStep := 0, cw := 0 }
    ∧ RunsAs (.jmp target) [0x5#4 ++ target.extractLsb' 8 4, target.extractLsb' 0 8] 6 s

/-- R271, R272, R273: each conditional branch tests its own flag, and changes no flag. Taken it is a jump, in 6 ticks; not
taken PC goes past the operand byte, which is not read (IR2 is as before), in 4. When the flag is sampled is the
spec's decision D31. -/
def Obligations.BranchesTestTheirFlag : Prop :=
  ∀ (cls : Nibble) (flag : Bool) (branch : Word → Instr) (target : Word) (s : State),
    (cls, flag, branch) ∈ [(0x6#4, s.cf, Instr.jmpc), (0x7#4, s.zf, Instr.jmpz), (0x8#4, s.sf, Instr.jmpn)] →
    exec (branch target) s = .next
      (if flag = true then { s with
        ir := cls ++ target.extractLsb' 8 4, ir2 := target.extractLsb' 0 8, pc := target, mar := s.pc + 1,
        microStep := 0, cw := 0 }
      else { s with
        ir := cls ++ target.extractLsb' 8 4, pc := s.pc + 2, mar := s.pc, microStep := 0, cw := 0 })
    ∧ RunsAs (branch target) [cls ++ target.extractLsb' 8 4, target.extractLsb' 0 8] (if flag = true then 6 else 4) s

/-- R274: JSR pushes the address of the following instruction, all 12 bits, and wraps SP modulo 256; its byte is the spec's
decision D1, the push step of its own and the ticks D2 (log entry 10). -/
def Obligations.JsrPushesTheReturnAddress : Prop :=
  ∀ (target : Word) (s : State),
    exec (.jsr target) s = .next { s with
      ir := 0x9#4 ++ target.extractLsb' 8 4, ir2 := target.extractLsb' 0 8, pc := target, mar := s.pc + 1,
      stk := s.stk.set s.sp.toNat (s.pc + 2) s.sp.isLt, sp := BitVec.ofNat 8 ((s.sp.toNat + 1) % 256),
      microStep := 0, cw := 0 }
    ∧ RunsAs (.jsr target) [0x9#4 ++ target.extractLsb' 8 4, target.extractLsb' 0 8] 7 s

/-- R275: RET pops all 12 bits into PC; the cell keeps its content (the spec's decision D29). Bits 11..8 of a cell that an
8-bit push wrote are a free nibble (D13; log entry 4). -/
def Obligations.RetPopsThePc : Prop :=
  ∀ s : State,
    let newSp := BitVec.ofNat 8 ((s.sp.toNat + 255) % 256)
    exec .ret s = .next { s with
      ir := 0xF9, pc := s.stk[newSp.toNat]'newSp.isLt, mar := s.pc, sp := newSp, microStep := 0, cw := 0 }
    ∧ RunsAs .ret [0xF9] 4 s

/-- R274, §8 invariant 5: after a JSR, a RET from any state whose SP and whose cell below SP are as the JSR left them comes
back to the instruction after the JSR, with SP as before the JSR. -/
def Obligations.RetReturnsAfterTheJsr : Prop :=
  ∀ (target : Word) (s t u : State), exec (.jsr target) s = .next t → u.sp = t.sp → topCell u = topCell t →
    ∃ v, exec .ret u = .next v ∧ v.pc = s.pc + 2 ∧ v.sp = s.sp

/-! ## The instructions: immediate -/

/-- R290, R291, R292: LDI and LDIB; their bytes and ticks are the spec's decisions D1, D2 (log entry 10). -/
def Obligations.LdiLdibLoadTheImmediate : Prop :=
  ∀ (imm : Byte) (s : State),
    exec (.ldi imm) s = .next { s with
      ir := 0xE0, pc := s.pc + 2, mar := s.pc + 1, a := imm, microStep := 0, cw := 0 }
    ∧ RunsAs (.ldi imm) [0xE0, imm] 5 s
    ∧ exec (.ldib imm) s = .next { s with
      ir := 0xE1, pc := s.pc + 2, mar := s.pc + 1, b := imm, microStep := 0, cw := 0 }
    ∧ RunsAs (.ldib imm) [0xE1, imm] 5 s

/-- R293, R294: ADD# and SUB# load B and operate on A. CF after SUB# is 1 exactly when there is no borrow (the spec's
decision D7). -/
def Obligations.AddSubImmediate : Prop :=
  ∀ (imm : Byte) (s : State),
    let sum := s.a.toNat + imm.toNat
    let difference := (s.a.toNat + 256 - imm.toNat) % 256
    exec (.addImm imm) s = .next { s with
      ir := 0xE2, pc := s.pc + 2, mar := s.pc + 1, b := imm, a := BitVec.ofNat 8 sum,
      cf := decide (256 ≤ sum), zf := decide (sum % 256 = 0), sf := decide (128 ≤ sum % 256), microStep := 0, cw := 0 }
    ∧ RunsAs (.addImm imm) [0xE2, imm] 6 s
    ∧ exec (.subImm imm) s = .next { s with
      ir := 0xE3, pc := s.pc + 2, mar := s.pc + 1, b := imm, a := BitVec.ofNat 8 difference,
      cf := decide (imm.toNat ≤ s.a.toNat), zf := decide (s.a = imm), sf := decide (128 ≤ difference),
      microStep := 0, cw := 0 }
    ∧ RunsAs (.subImm imm) [0xE3, imm] 6 s

/-- R295, R318: PUSH# and PUSHA put their byte in bits 7..0 of the cell at SP; bits 11..8 are SOME nibble (a free value),
and the model's own counter of free nibbles becomes some number. Every other cell is as before; SP wraps modulo 256.
The free nibble is the spec's decision D13 (log entry 4). -/
def Obligations.BytePushesWriteTheCellAtSp : Prop :=
  ∀ (imm : Byte) (s : State),
    (∃ (upper : Nibble) (count : Nat), exec (.pushImm imm) s = .next { s with
      ir := 0xE4, pc := s.pc + 2, mar := s.pc + 1, stk := s.stk.set s.sp.toNat (upper ++ imm) s.sp.isLt,
      sp := BitVec.ofNat 8 ((s.sp.toNat + 1) % 256), freeCount := count, microStep := 0, cw := 0 })
    ∧ RunsAs (.pushImm imm) [0xE4, imm] 5 s
    ∧ (∃ (upper : Nibble) (count : Nat), exec .pusha s = .next { s with
      ir := 0xF7, pc := s.pc + 1, mar := s.pc, stk := s.stk.set s.sp.toNat (upper ++ s.a) s.sp.isLt,
      sp := BitVec.ofNat 8 ((s.sp.toNat + 1) % 256), freeCount := count, microStep := 0, cw := 0 })
    ∧ RunsAs .pusha [0xF7] 4 s

/-- R296, R320, R322: HALT#, HALTA and HALT set HALTED in a tick of their own and leave STEP at 5, 4 and 3 and CW at the HT
word; HALT# and HALTA have written OUT before. The tick of its own is the spec's decision D16. -/
def Obligations.HaltFamilyEndsTheRun : Prop :=
  ∀ (imm : Byte) (s : State),
    exec (.haltImm imm) s = .next { s with
      ir := 0xE5, pc := s.pc + 2, mar := s.pc + 1, out := imm, outTrace := imm :: s.outTrace,
      halted := true, microStep := 5, cw := 0x004000 }
    ∧ RunsAs (.haltImm imm) [0xE5, imm] 5 s
    ∧ exec .halta s = .next { s with
      ir := 0xFA, pc := s.pc + 1, mar := s.pc, out := s.a, outTrace := s.a :: s.outTrace,
      halted := true, microStep := 4, cw := 0x004000 }
    ∧ RunsAs .halta [0xFA] 4 s
    ∧ exec .halt s = .next { s with
      ir := 0xFC, pc := s.pc + 1, mar := s.pc, halted := true, microStep := 3, cw := 0x004000 }
    ∧ RunsAs .halt [0xFC] 3 s

/-- R297, R321: SETP and REFRESH change no state of CORE but the common effects; SETP's byte goes to the screen-pointer
register, and each is recorded as an event at CORE's boundary. The events are the spec's decision D22, their record in the
state the model's (log entry 6). -/
def Obligations.SetpRefreshSignalTheScreen : Prop :=
  ∀ (imm : Byte) (s : State),
    exec (.setp imm) s = .next { s with
      ir := 0xE6, pc := s.pc + 2, mar := s.pc + 1, screenPtr := imm, screenEvents := .pi imm :: s.screenEvents,
      microStep := 0, cw := 0 }
    ∧ RunsAs (.setp imm) [0xE6, imm] 5 s
    ∧ exec .refresh s = .next { s with
      ir := 0xFB, pc := s.pc + 1, mar := s.pc, screenEvents := .rf :: s.screenEvents, microStep := 0, cw := 0 }
    ∧ RunsAs .refresh [0xFB] 4 s

/-! ## The instructions: nullary -/

/-- R311: OUT; each execution is one observation, which the trace records (the spec's decision D32; log entry 6). -/
def Obligations.OutCopiesA : Prop :=
  ∀ s : State,
    exec .out s = .next { s with
      ir := 0xF0, pc := s.pc + 1, mar := s.pc, out := s.a, outTrace := s.a :: s.outTrace, microStep := 0, cw := 0 }
    ∧ RunsAs .out [0xF0] 4 s

/-- R312, R313: INC writes all three flags, NOT leaves CF (the spec's decision D6). -/
def Obligations.IncNotOnA : Prop :=
  ∀ s : State,
    exec .inc s = .next { s with
      ir := 0xF1, pc := s.pc + 1, mar := s.pc, a := BitVec.ofNat 8 (s.a.toNat + 1),
      cf := decide (s.a.toNat = 255), zf := decide (s.a.toNat = 255), sf := decide (127 ≤ s.a.toNat ∧ s.a.toNat < 255),
      microStep := 0, cw := 0 }
    ∧ RunsAs .inc [0xF1] 4 s
    ∧ exec .not s = .next { s with
      ir := 0xF2, pc := s.pc + 1, mar := s.pc, a := BitVec.ofNat 8 (255 - s.a.toNat),
      zf := decide (s.a.toNat = 255), sf := decide (s.a.toNat < 128), microStep := 0, cw := 0 }
    ∧ RunsAs .not [0xF2] 4 s

/-- R314, R315: RSH halves the unsigned view, clears SF and leaves CF (the spec's decision D6); LSH doubles it modulo 256 and
moves bit 7 to CF. -/
def Obligations.ShiftsOfA : Prop :=
  ∀ s : State,
    exec .rsh s = .next { s with
      ir := 0xF3, pc := s.pc + 1, mar := s.pc, a := BitVec.ofNat 8 (s.a.toNat / 2),
      zf := decide (s.a.toNat ≤ 1), sf := false, microStep := 0, cw := 0 }
    ∧ RunsAs .rsh [0xF3] 4 s
    ∧ exec .lsh s = .next { s with
      ir := 0xF4, pc := s.pc + 1, mar := s.pc, a := BitVec.ofNat 8 (2 * s.a.toNat),
      cf := decide (128 ≤ s.a.toNat), zf := decide (s.a.toNat % 128 = 0), sf := decide (64 ≤ s.a.toNat % 128),
      microStep := 0, cw := 0 }
    ∧ RunsAs .lsh [0xF4] 4 s

/-- R310, R316, R317: TAKE and MOVE; their bytes and ticks are the spec's decisions D1, D2 (log entry 10). -/
def Obligations.TakeMoveCopyRegisters : Prop :=
  ∀ s : State,
    exec .take s = .next { s with ir := 0xF5, pc := s.pc + 1, mar := s.pc, a := s.b, microStep := 0, cw := 0 }
    ∧ RunsAs .take [0xF5] 4 s
    ∧ exec .move s = .next { s with ir := 0xF6, pc := s.pc + 1, mar := s.pc, b := s.a, microStep := 0, cw := 0 }
    ∧ RunsAs .move [0xF6] 4 s

/-- R319: POPA takes the low 8 bits of the cell below SP, whatever pushed it; the cell keeps its content (the spec's decision
D29) and SP wraps. -/
def Obligations.PopaTakesTheLowByte : Prop :=
  ∀ s : State,
    let newSp := BitVec.ofNat 8 ((s.sp.toNat + 255) % 256)
    exec .popa s = .next { s with
      ir := 0xF8, pc := s.pc + 1, mar := s.pc, sp := newSp,
      a := BitVec.ofNat 8 ((s.stk[newSp.toNat]'newSp.isLt).toNat % 256), microStep := 0, cw := 0 }
    ∧ RunsAs .popa [0xF8] 4 s

/-- R323: MULTL multiplies A by B as it is; the carry is the free `MULL_CF` of the operands (the spec's decisions D1,
D9). -/
def Obligations.MultlMultipliesAByB : Prop :=
  ∀ s : State,
    let low := s.a.toNat * s.b.toNat % 256
    exec .multl s = .next { s with
      ir := 0xFD, pc := s.pc + 1, mar := s.pc, a := BitVec.ofNat 8 low, cf := Config.mullCf s.a s.b,
      zf := decide (low = 0), sf := decide (128 ≤ low), microStep := 0, cw := 0 }
    ∧ RunsAs .multl [0xFD] 4 s

/-! ## Frames over the whole instruction set -/

/-- R63: STA is the only instruction that writes RAM, and it writes only its operand address. -/
def Obligations.OnlyStaWritesRam : Prop :=
  ∀ (i : Instr) (s t : State) (x : Word), exec i s = .next t → i ≠ .sta x → readByte t x = readByte s x

/-- R28, R386: the flags change only by the instructions that contain an ALU operation; of these AND, OR, NOT, RSH and MULH
leave CF (the spec's decision D6). -/
def Obligations.FlagsChangeOnlyByAluInstructions : Prop :=
  ∀ (i : Instr) (s t : State), exec i s = .next t →
    ((t.zf ≠ s.zf ∨ t.sf ≠ s.sf) →
      (∃ m, i = .add m ∨ i = .sub m ∨ i = .and m ∨ i = .or m ∨ i = .mull m ∨ i = .mulh m)
      ∨ (∃ v, i = .addImm v ∨ i = .subImm v) ∨ i = .inc ∨ i = .not ∨ i = .rsh ∨ i = .lsh ∨ i = .multl)
    ∧ (t.cf ≠ s.cf →
      (∃ m, i = .add m ∨ i = .sub m ∨ i = .mull m) ∨ (∃ v, i = .addImm v ∨ i = .subImm v)
      ∨ i = .inc ∨ i = .lsh ∨ i = .multl)

/-- R21, R22, R24: the instructions that can change A, B and IR2. -/
def Obligations.DataRegistersChangeOnlyByTheirWriters : Prop :=
  ∀ (i : Instr) (s t : State), exec i s = .next t →
    (t.a ≠ s.a →
      (∃ m, i = .lda m ∨ i = .add m ∨ i = .sub m ∨ i = .and m ∨ i = .or m ∨ i = .mull m ∨ i = .mulh m)
      ∨ (∃ v, i = .ldi v ∨ i = .addImm v ∨ i = .subImm v)
      ∨ i = .inc ∨ i = .not ∨ i = .rsh ∨ i = .lsh ∨ i = .take ∨ i = .popa ∨ i = .multl)
    ∧ (t.b ≠ s.b →
      (∃ m, i = .add m ∨ i = .sub m ∨ i = .and m ∨ i = .or m ∨ i = .mull m ∨ i = .mulh m)
      ∨ (∃ v, i = .ldib v ∨ i = .addImm v ∨ i = .subImm v) ∨ i = .move)
    ∧ (t.ir2 ≠ s.ir2 → highNibble (firstByte i) < 0xE#4)

/-- R31, R32: only pushes and pops move SP, by one; only pushes write STK, and only the cell SP named. -/
def Obligations.StackChangesOnlyByPushesAndPops : Prop :=
  ∀ (i : Instr) (s t : State), exec i s = .next t →
    let pushes := (∃ m, i = .jsr m) ∨ (∃ v, i = .pushImm v) ∨ i = .pusha
    let pops := i = .ret ∨ i = .popa
    (pushes → t.sp = s.sp + 1) ∧ (pops → t.sp = s.sp - 1) ∧ (¬ pushes → ¬ pops → t.sp = s.sp)
    ∧ ∀ k : BitVec 8, (¬ pushes ∨ k ≠ s.sp) → t.stk[k.toNat]'k.isLt = s.stk[k.toNat]'k.isLt

/-- R25, R346, R39: OUT and its trace change only by OUT, HALTA and HALT#; the screen's side only by SETP and REFRESH; HALTED
becomes true exactly by HALT, HALTA and HALT#; the host's line never changes. HALTED, the line and the traces
are the spec's decisions D17, D23, D32. -/
def Obligations.OutputsChangeOnlyByTheirWriters : Prop :=
  ∀ (i : Instr) (s t : State), exec i s = .next t →
    ((t.out ≠ s.out ∨ t.outTrace ≠ s.outTrace) → i = .out ∨ i = .halta ∨ ∃ v, i = .haltImm v)
    ∧ ((t.screenPtr ≠ s.screenPtr ∨ t.screenEvents ≠ s.screenEvents) → i = .refresh ∨ ∃ v, i = .setp v)
    ∧ (s.halted = false → (t.halted = true ↔ (i = .halt ∨ i = .halta ∨ ∃ v, i = .haltImm v)))
    ∧ t.hostStop = s.hostStop

/-! ## RAM and the call stack -/

/-- R62: the two memory primitives are total; a byte of RAM after a write is the byte written at the address written, and as
before at every other; a write changes nothing but RAM, and what a read gives depends on nothing but RAM. -/
def Obligations.ReadAfterWrite : Prop :=
  ∀ (addr x : Word) (v : Byte) (s u : State),
    readByte (writeByte addr v s) x = (if x = addr then v else readByte s x)
    ∧ writeByte addr v s = { s with ram := (writeByte addr v s).ram }
    ∧ (u.ram = s.ram → readByte u x = readByte s x)

/-- R74, R75: a store is seen by every later fetch from its address; a store into either byte of the STA itself does not
affect that STA. -/
def Obligations.StoresReachLaterFetches : Prop :=
  (∀ (addr : Word) (s t u : State), exec (.sta addr) s = .next t → u.ram = t.ram → u.pc = addr →
    fetched u = decodePair s.a (readByte u (addr + 1)))
  ∧ ∀ (addr : Word) (s : State), ReadyToFetch s → PlacedAtPc (.sta addr) s → (addr = s.pc ∨ addr = s.pc + 1) →
    ∃ t, ticks romRef 7 s = .next t ∧ t.ir = 0x4#4 ++ addr.extractLsb' 8 4 ∧ t.ir2 = addr.extractLsb' 0 8
      ∧ t.mar = addr ∧ t.pc = s.pc + 2 ∧ t.microStep = 0 ∧ t.a = s.a ∧ readByte t addr = s.a

/-- R175, §8 invariant 4: after N pushes and N pops of one width, N at most 256, SP is as it was and the values popped are those
pushed, in reverse; for 12-bit pushes and pops, and for 8-bit ones. A pop leaves the cells as they are (the spec's decision
D29); bits 11..8 of a cell an 8-bit push wrote are free and an 8-bit pop does not see them (D13; log entry 4). -/
def Obligations.PopsReverseThePushes : Prop :=
  (∀ (values : List Word) (s : State), values.length ≤ 256 →
    let pushed := values.foldl (fun u v => pushWord v u) s
    (Nat.iterate dropCell values.length pushed).sp = s.sp
    ∧ ∀ k, k < values.length → some (topCell (Nat.iterate dropCell k pushed)) = values.reverse[k]?)
  ∧ ∀ (values : List Byte) (s : State), values.length ≤ 256 →
    let pushed := values.foldl (fun u v => pushByte v u) s
    (Nat.iterate dropCell values.length pushed).sp = s.sp
    ∧ ∀ k, k < values.length →
      some ((topCell (Nat.iterate dropCell k pushed)).extractLsb' 0 8) = values.reverse[k]?

/-! ## The ALU -/

/-- R139: the result and the carry of each ALU operation code on every pair of operands; code 0000 and the reserved codes
select no operation. The carries of SUB, DEC, MULL and of the operations that leave CF, the unsigned product and the reserved
codes are the spec's decisions D7, D8, D9, D6, D10, D11. -/
def Obligations.AluTable : Prop :=
  (∀ code : Nibble, aluOpOfCode code = none ↔ code = 0 ∨ 13 ≤ code.toNat)
  ∧ ∀ a b : Byte,
    let x := a.toNat
    let y := b.toNat
    let entry := fun (code : Nibble) (r : Nat) (c : Option Bool) =>
      ∃ op, aluOpOfCode code = some op ∧ (aluResult op a b).toNat = r ∧ aluCarry op a b = c
    entry 1 ((x + y) % 256) (some (decide (256 ≤ x + y)))
    ∧ entry 2 ((x + 256 - y) % 256) (some (decide (y ≤ x)))
    ∧ entry 3 ((x + 1) % 256) (some (decide (x = 255)))
    ∧ entry 4 ((x + 255) % 256) (some (decide (x = 0)))
    ∧ entry 5 (a &&& b).toNat none
    ∧ entry 6 (a ||| b).toNat none
    ∧ entry 7 (255 - x) none
    ∧ entry 8 (x / 2) none
    ∧ entry 9 (2 * x % 256) (some (decide (128 ≤ x)))
    ∧ entry 10 (x * y % 256) (some (Config.mullCf a b))
    ∧ entry 11 (x * y / 256) none
    ∧ entry 12 (a ^^^ b).toNat none

/-- R135, R136, R133: in a tick of any ROM whose word has a non-zero ALU code, ZF and SF are those of the 8-bit result, and
CF is written only by ADD, SUB, INC, DEC, LSH and MULL; with code 0000 all three flags are unchanged. That the
other operations leave CF is the spec's decision D6. -/
def Obligations.TicksWriteTheFlagsByLaw : Prop :=
  ∀ (rom : Rom) (s t : State) (w : ControlWord), s.hostStop = false → rom (romIndex s) = some w → tick rom s = .next t →
    (aluCode w = 0 → t.cf = s.cf ∧ t.zf = s.zf ∧ t.sf = s.sf)
    ∧ ∀ op, aluOpOfCode (aluCode w) = some op →
      t.zf = decide ((aluResult op s.a s.b).toNat = 0) ∧ t.sf = decide (128 ≤ (aluResult op s.a s.b).toNat)
      ∧ (op ∈ [AluOp.and, .or, .not, .rsh, .mulh, .xor] → t.cf = s.cf)
      ∧ (op ∈ [AluOp.add, .sub, .inc, .dec, .lsh, .mull] → aluCarry op s.a s.b = some t.cf)

/-! ## The control unit and the tick, for any ROM -/

/-- R160: the ROM index as the number the spec writes; the order of IR's nibbles in it is the spec's decision D5. -/
def Obligations.RomIndexIsTheFormula : Prop :=
  ∀ s : State, (romIndex s).toNat =
    s.microStep.toNat + s.ir.toNat * 8 + s.cf.toNat * 2048 + s.zf.toNat * 4096 + s.sf.toNat * 8192

/-- R162: a tick that reads the zero word clears CW and STEP and changes nothing else. -/
def Obligations.TerminatorTickChangesNothingElse : Prop :=
  ∀ (rom : Rom) (s : State), s.halted = false → s.hostStop = false → rom (romIndex s) = some 0 →
    tick rom s = .next { s with cw := 0, microStep := 0 }

/-- R161: a tick that reads a non-zero word and answers drives it on the lines and increments STEP, modulo 8. The wrap at 7 is
the spec's decision D15 (log entry 13). -/
def Obligations.NonZeroWordIncrementsStep : Prop :=
  ∀ (rom : Rom) (s t : State) (w : ControlWord), rom (romIndex s) = some w → w ≠ 0 → tick rom s = .next t →
    t.cw = w ∧ t.microStep.toNat = (s.microStep.toNat + 1) % 8

/-- R164: a tick that observes HT, or the host's stop, performs the control unit's step, sets HALTED, and nothing else. The
host's line is the spec's decision D23. -/
def Obligations.HaltTickPerformsNoDatapathAction : Prop :=
  ∀ (rom : Rom) (s : State) (w : ControlWord), s.halted = false → rom (romIndex s) = some w → (w ≠ 0 → admitted w = true) →
    (asserts w .ht = true ∨ s.hostStop = true) →
    tick rom s = .next { s with
      cw := w, microStep := if w = 0 then 0 else BitVec.ofNat 3 ((s.microStep.toNat + 1) % 8), halted := true }

/-- R153: a non-zero word is admitted exactly when the eight conditions hold, here as the spec words them, and the tick that
reads any other non-zero word is refused. Conditions 2 to 8 and the refusal are the spec's decision D14. -/
def Obligations.AdmittedIsTheEightConditions : Prop :=
  (∀ w : ControlWord,
    let on := fun l => asserts w l = true
    let alu := aluCode w ≠ 0
    let pop8 := on .so ∧ ¬ on .sa
    let pop12 := on .so ∧ on .sa
    let dataDrivers := [alu, on .ao, on .bo, on .ro, pop8]
    let addressDrivers := [on .co, on .io, pop12]
    admitted w = true ↔
      (¬ (on .ri ∧ on .ro) ∧ ¬ (on .ce ∧ on .jp))
      ∧ dataDrivers.Pairwise (fun p q => ¬ (p ∧ q))
      ∧ addressDrivers.Pairwise (fun p q => ¬ (p ∧ q))
      ∧ ((on .ri → alu ∨ on .ao ∨ on .bo)
        ∧ (on .si ∧ ¬ on .sa → alu ∨ on .ao ∨ on .bo ∨ on .ro)
        ∧ (on .ai ∨ on .bi ∨ on .ii ∨ on .xi ∨ on .oi ∨ on .pi → alu ∨ on .ao ∨ on .bo ∨ on .ro ∨ pop8)
        ∧ (on .mi ∨ (on .si ∧ on .sa) → on .co ∨ on .io)
        ∧ (on .jp → on .co ∨ on .io ∨ pop12))
      ∧ ¬ (on .si ∧ on .so)
      ∧ ¬ (on .mi ∧ (on .ro ∨ on .ri))
      ∧ (aluCode w ≠ 0b1101 ∧ aluCode w ≠ 0b1110 ∧ aluCode w ≠ 0b1111)
      ∧ (on .ht → ∀ l, on l → l = .ht))
  ∧ ∀ (rom : Rom) (s : State) (w : ControlWord), s.halted = false → rom (romIndex s) = some w → w ≠ 0 →
    admitted w = false → tick rom s = .refused (.notAdmitted w)

/-- R160 to R180, R184: with any ROM, the tick of a running machine that reads an admitted word without HT, the host not
stopping the run, answers, and every field after it is the one the lines say, as a function of the state before: every driver
reads the state before the tick, and every reader the bus. The meanings of the lines the source does not define are the spec's
decisions D3, D4, D12; CF kept D6, the wraps of STEP and PC D15 and D20, the cell kept by a pop D29 (log entry 13). The nibble
of an 8-bit push is free (D13, log entry 4); the screen pointer, the events and the trace of OUT as fields of the state are
the model's choice (R177, R180, D22, D32; log entry 6). -/
def Obligations.AdmittedTickFollowsTheLines : Prop :=
  ∀ (rom : Rom) (s : State) (w : ControlWord), s.halted = false → s.hostStop = false → rom (romIndex s) = some w →
    admitted w = true → asserts w .ht = false →
    let on := asserts w
    let op := aluOpOfCode (aluCode w)
    let data : Byte :=
      if on .ao then s.a else if on .bo then s.b else if on .ro then readByte s s.mar
      else if on .so && !on .sa then (topCell s).extractLsb' 0 8 else (op.map (aluResult · s.a s.b)).getD 0
    let address : Word := if on .co then s.pc else if on .io then busOperand s else topCell s
    ∃ t, tick rom s = .next t
      ∧ t.cw = w ∧ t.microStep = (if w = 0 then 0 else s.microStep + 1) ∧ t.halted = false ∧ t.hostStop = false
      ∧ t.cf = (op.bind (aluCarry · s.a s.b)).getD s.cf
      ∧ t.zf = (op.map (fun o => decide ((aluResult o s.a s.b).toNat = 0))).getD s.zf
      ∧ t.sf = (op.map (fun o => decide (128 ≤ (aluResult o s.a s.b).toNat))).getD s.sf
      ∧ t.a = (if on .ai then data else s.a) ∧ t.b = (if on .bi then data else s.b)
      ∧ t.ir = (if on .ii then data else s.ir) ∧ t.ir2 = (if on .xi then data else s.ir2)
      ∧ t.out = (if on .oi then data else s.out) ∧ t.screenPtr = (if on .pi then data else s.screenPtr)
      ∧ t.mar = (if on .mi then address else s.mar)
      ∧ t.pc = (if on .ce then s.pc + 1 else if on .jp then address else s.pc)
      ∧ (∀ x, readByte t x = if on .ri ∧ x = s.mar then data else readByte s x)
      ∧ t.sp = (if on .si then s.sp + 1 else if on .so then s.sp - 1 else s.sp)
      ∧ (∀ k : BitVec 8, k ≠ s.sp ∨ on .si = false → t.stk[k.toNat]'k.isLt = s.stk[k.toNat]'k.isLt)
      ∧ (on .si → on .sa → t.stk[s.sp.toNat]'s.sp.isLt = address)
      ∧ (on .si → on .sa = false → (t.stk[s.sp.toNat]'s.sp.isLt).extractLsb' 0 8 = data)
      ∧ t.screenEvents = (if on .rf then [ScreenEvent.rf] else []) ++ (if on .pi then [.pi data] else []) ++ s.screenEvents
      ∧ t.outTrace = (if on .oi then data :: s.outTrace else s.outTrace)
      ∧ (on .si = false ∨ on .sa = true → t.freeCount = s.freeCount)

/-- R205: with any ROM that meets R204 (the spec's decision D2) the first two ticks from a boundary are the fetch, whatever IR
and the flags hold (R371). The wrap of PC is the spec's decision D20 (R26, R178; log entry 13). -/
def Obligations.FetchPairOfAnyRom : Prop :=
  ∀ (rom : Rom) (s : State), rom.WellFormed → ReadyToFetch s →
    ticks rom 2 s = .next { s with
      mar := s.pc, ir := readByte s s.pc, pc := BitVec.ofNat 12 ((s.pc.toNat + 1) % 4096), cw := 0x00008C, microStep := 2 }

/-- R7, R346, R347, R374 (the cap, a number or none, is open, D26): the host's loop has at most one outcome; it ends at the halt
or at the cap, whichever comes first, in the state of so many ticks, the machine not halted after any of those before. With no
cap it gives the state of the tick that halts, and nothing where every tick gives a running machine. -/
def Obligations.HostLoopEndsAtHaltOrCap : Prop :=
  (∀ (rom : Rom) (cap : Option Nat) (s t : State), HostLoop rom cap s (.next t) →
    ∃ n, ticks rom n s = .next t ∧ (cap = some n ∨ t.halted = true) ∧ (∀ c, cap = some c → n ≤ c)
      ∧ ∀ k, 0 < k → k < n → ∃ u, ticks rom k s = .next u ∧ u.halted = false)
  ∧ (∀ (rom : Rom) (n : Nat) (s t : State), s.halted = false → ticks rom n s = .next t → t.halted = true →
    HostLoop rom none s (.next t))
  ∧ (∀ (rom : Rom) (s : State), (∀ n, ∃ u, ticks rom n s = .next u ∧ u.halted = false) → ∀ o, ¬ HostLoop rom none s o)
  ∧ ∀ (rom : Rom) (cap : Option Nat) (s : State) (o p : Host.Outcome State Fault Refusal),
    HostLoop rom cap s o → HostLoop rom cap s p → o = p

/-! ## The reference ROM -/

/-- R204 (a), (b): the reference ROM is well formed (the spec's decision D2). -/
def Obligations.ReferenceRomIsWellFormed : Prop := romRef.WellFormed

/-- R208: the reference ROM holds exactly these 33 distinct non-zero words. -/
def Obligations.ReferenceRomHoldsThirtyThreeWords : Prop :=
  let words : List ControlWord :=
    [0x000011, 0x000021, 0x000050, 0x000080, 0x00008C, 0x000104, 0x000184, 0x000202, 0x000500, 0x000900, 0x000D00,
     0x001500, 0x001900, 0x001D00, 0x002100, 0x002500, 0x002900, 0x002D00, 0x004000, 0x008004, 0x008084, 0x008200,
     0x010100, 0x020084, 0x020200, 0x040084, 0x080084, 0x080200, 0x100100, 0x280020, 0x300040, 0x400000, 0x800084]
  words.length = 33 ∧ words.Nodup
  ∧ (∀ idx w, romRef idx = some w → w ≠ 0 → w ∈ words)
  ∧ ∀ w, w ∈ words → ∃ idx, romRef idx = some w

/-- R210 to R217: the micro-programs of the addressed data instructions, under every flag state and address nibble. -/
def Obligations.AddressedDataMicroPrograms : Prop :=
  ∀ (cls : Nibble) (tail : List ControlWord) (ah : Nibble) (k : BitVec 3) (cf zf sf : Bool),
    (cls, tail) ∈ [(0x1#4, [0x000104#24]), (0x4#4, [0x000202#24]), (0x2#4, [0x008004#24, 0x000500#24]),
      (0x3#4, [0x008004#24, 0x000900#24]), (0xA#4, [0x008004#24, 0x001500#24]), (0xB#4, [0x008004#24, 0x001900#24]),
      (0xC#4, [0x008004#24, 0x002900#24]), (0xD#4, [0x008004#24, 0x002D00#24])] →
    romRef (indexOf k (cls ++ ah) cf zf sf) =
      some (([0x000021#24, 0x00008C#24, 0x000021#24, 0x040084#24, 0x000011#24] ++ tail).getD k.toNat 0)

/-- R218 to R222: the micro-programs of the jumps, the conditional branches by their flag, and JSR. -/
def Obligations.TransferMicroPrograms : Prop :=
  ∀ (ah : Nibble) (k : BitVec 3) (cf zf sf : Bool),
    let word := fun (cls : Nibble) => romRef (indexOf k (cls ++ ah) cf zf sf)
    let jump := some (([0x000021, 0x00008C, 0x000021, 0x040084, 0x000050] : List ControlWord).getD k.toNat 0)
    let skip := some (([0x000021, 0x00008C, 0x000080] : List ControlWord).getD k.toNat 0)
    word 0x5 = jump
    ∧ word 0x6 = (if cf then jump else skip) ∧ word 0x7 = (if zf then jump else skip) ∧ word 0x8 = (if sf then jump else skip)
    ∧ word 0x9 =
      some (([0x000021, 0x00008C, 0x000021, 0x040084, 0x280020, 0x000050] : List ControlWord).getD k.toNat 0)

/-- R223 to R229: the micro-programs of the immediate instructions. -/
def Obligations.ImmediateMicroPrograms : Prop :=
  ∀ (ir : Byte) (tail : List ControlWord) (k : BitVec 3) (cf zf sf : Bool),
    (ir, tail) ∈ [(0xE0#8, [0x000184#24]), (0xE1#8, [0x008084#24]), (0xE2#8, [0x008084#24, 0x000500#24]),
      (0xE3#8, [0x008084#24, 0x000900#24]), (0xE4#8, [0x080084#24]), (0xE5#8, [0x020084#24, 0x004000#24]),
      (0xE6#8, [0x800084#24])] →
    romRef (indexOf k ir cf zf sf) =
      some (([0x000021#24, 0x00008C#24, 0x000021#24] ++ tail).getD k.toNat 0)

/-- R230 to R239: the micro-programs of the nullary instructions 0xF0..0xF9. -/
def Obligations.NullaryMicroPrograms : Prop :=
  ∀ (ir : Byte) (word : ControlWord) (k : BitVec 3) (cf zf sf : Bool),
    (ir, word) ∈ [(0xF0#8, 0x020200#24), (0xF1#8, 0x000D00#24), (0xF2#8, 0x001D00#24), (0xF3#8, 0x002100#24),
      (0xF4#8, 0x002500#24), (0xF5#8, 0x010100#24), (0xF6#8, 0x008200#24), (0xF7#8, 0x080200#24), (0xF8#8, 0x100100#24),
      (0xF9#8, 0x300040#24)] →
    romRef (indexOf k ir cf zf sf) = some (([0x000021#24, 0x00008C#24] ++ [word]).getD k.toNat 0)

/-- R240 to R244: the micro-programs of HALTA, REFRESH, HALT and MULTL; a reserved byte has the fetch pair and no defined word
from step 2 on (the spec's decision D19). -/
def Obligations.LastMicroProgramsAndReservedFrames : Prop :=
  ∀ (ir : Byte) (k : BitVec 3) (cf zf sf : Bool),
    (∀ tail : List ControlWord,
      (ir, tail) ∈ [(0xFA#8, [0x020200#24, 0x004000#24]), (0xFB#8, [0x400000#24]), (0xFC#8, [0x004000#24]),
        (0xFD#8, [0x002900#24])] →
      romRef (indexOf k ir cf zf sf) = some (([0x000021#24, 0x00008C#24] ++ tail).getD k.toNat 0))
    ∧ (reservedByte ir = true → romRef (indexOf k ir cf zf sf) = ([0x000021#24, 0x00008C#24] : List ControlWord)[k.toNat]?)
end

