-- ==== Sys2Proof/Laws/Alu.lean ====
section
/-! SUPPORT. The ALU's exact sums and product as natural numbers, before the result byte and the carry are cut from them
(spec/40_alu.md R121 to R123, R130). -/

namespace Sys2Proof.Machine

theorem addSum_toNat (a b : Byte) : (addSum a b).toNat = a.toNat + b.toNat := by
  simp only [addSum, BitVec.toNat_add, BitVec.toNat_setWidth]
  omega

/-- R122: the adder form is the difference plus 256. -/
theorem subSum_toNat (a b : Byte) : (subSum a b).toNat = a.toNat + 256 - b.toNat := by
  simp [subSum]
  omega

theorem incSum_toNat (a : Byte) : (incSum a).toNat = a.toNat + 1 := by
  simp [incSum]
  omega

/-- R130, R138: the product of the unsigned views fits in 16 bits. -/
theorem product_toNat (a b : Byte) : (product false a b).toNat = a.toNat * b.toNat := by
  have h : a.toNat * b.toNat ≤ 255 * 255 := Nat.mul_le_mul (by omega) (by omega)
  have ha : a.toNat % 2 ^ 16 = a.toNat := Nat.mod_eq_of_lt (by omega)
  have hb : b.toNat % 2 ^ 16 = b.toNat := Nat.mod_eq_of_lt (by omega)
  simp only [product, Bool.false_eq_true, if_false, BitVec.toNat_mul, BitVec.toNat_setWidth, ha, hb]
  omega

end Sys2Proof.Machine
end

