-- ==== Sys2Proof/Laws/Decode.lean ====
section
/-! SUPPORT. The bit fields of the instruction bytes, and that the opcode maps name each nibble once
(spec/30_encoding.md R91 to R99). -/

namespace Sys2Proof

/-! ## Fields of a byte written as two nibbles -/

@[simp] theorem highNibble_append (h l : Nibble) : highNibble (h ++ l) = h := by
  ext k hk
  simp only [highNibble, BitVec.getElem_extractLsb', BitVec.getLsbD_append]
  simp [BitVec.getLsbD_eq_getElem hk]

@[simp] theorem lowNibble_append (h l : Nibble) : lowNibble (h ++ l) = l := by
  ext k hk
  simp only [lowNibble, BitVec.getElem_extractLsb', BitVec.getLsbD_append]
  simp [hk]

/-- A byte is its two nibbles. -/
theorem nibbles_append (b : Byte) : highNibble b ++ lowNibble b = b := by
  ext k hk
  simp only [highNibble, lowNibble, BitVec.getElem_append, BitVec.getElem_extractLsb']
  split
  · simp [BitVec.getLsbD_eq_getElem hk]
  · rw [show 4 + (k - 4) = k by omega, BitVec.getLsbD_eq_getElem hk]

/-- R95: the operand put together from the two halves an addressed instruction stores. -/
@[simp] theorem addressOperand_append (cls : Nibble) (addr : Word) :
    addressOperand (cls ++ addr.extractLsb' 8 4) (addr.extractLsb' 0 8) = addr := by
  rw [addressOperand, lowNibble_append]
  ext k hk
  simp only [BitVec.getElem_append, BitVec.getElem_extractLsb']
  split
  · simp [BitVec.getLsbD_eq_getElem hk]
  · rw [show 8 + (k - 8) = k by omega, BitVec.getLsbD_eq_getElem hk]

/-- The halves of an operand put together from two bytes. -/
@[simp] theorem addressOperand_high (b0 b1 : Byte) : (addressOperand b0 b1).extractLsb' 8 4 = lowNibble b0 := by
  ext k hk
  simp only [addressOperand, BitVec.getElem_extractLsb', BitVec.getLsbD_append]
  simp [BitVec.getLsbD_eq_getElem hk]

@[simp] theorem addressOperand_low (b0 b1 : Byte) : (addressOperand b0 b1).extractLsb' 0 8 = b1 := by
  ext k hk
  simp only [addressOperand, BitVec.getElem_extractLsb', BitVec.getLsbD_append]
  simp [hk]

/-! ## The opcode maps -/

/-- No two rows of a map have the same nibble: every encoding names one instruction. -/
theorem opcode_maps_have_no_overlap :
    (addressedMap.map Prod.fst).Nodup ∧ (immediateMap.map Prod.fst).Nodup ∧ (nullaryMap.map Prod.fst).Nodup := by
  decide

/-- A lookup answers with a row of the map. -/
theorem lookupNibble_mem {α : Type} {n : Nibble} {m : List (Nibble × α)} {v : α} (h : lookupNibble n m = some v) :
    (n, v) ∈ m := by
  induction m with
  | nil => cases h
  | cons row rest ih =>
    obtain ⟨k, w⟩ := row
    simp only [lookupNibble] at h
    split at h
    · cases h
      subst_vars
      exact List.mem_cons_self
    · exact List.mem_cons_of_mem _ (ih h)

end Sys2Proof
end

