-- ==== Sys2Proof/Laws/Microcode.lean ====
section
/-! SUPPORT. The control words of the reference ROM as the numbers the spec prints (spec/42_microcode_rom.md R208), and the ROM
at the index of a state (spec/41_control_and_tick.md R160). -/

namespace Sys2Proof.Machine

/-! ## The 33 control words (R208) -/

@[simp] theorem wordOf_co_mi : wordOf [.co, .mi] = 0x000021#24 := by decide
@[simp] theorem wordOf_io_mi : wordOf [.io, .mi] = 0x000011#24 := by decide
@[simp] theorem wordOf_io_jp : wordOf [.io, .jp] = 0x000050#24 := by decide
@[simp] theorem wordOf_ce : wordOf [.ce] = 0x000080#24 := by decide
@[simp] theorem wordOf_ro_ii_ce : wordOf [.ro, .ii, .ce] = 0x00008C#24 := by decide
@[simp] theorem wordOf_ro_ai : wordOf [.ro, .ai] = 0x000104#24 := by decide
@[simp] theorem wordOf_ro_ai_ce : wordOf [.ro, .ai, .ce] = 0x000184#24 := by decide
@[simp] theorem wordOf_ao_ri : wordOf [.ao, .ri] = 0x000202#24 := by decide
@[simp] theorem wordOf_ai_add : wordOf [.ai] (aluOpCode .add) = 0x000500#24 := by decide
@[simp] theorem wordOf_ai_sub : wordOf [.ai] (aluOpCode .sub) = 0x000900#24 := by decide
@[simp] theorem wordOf_ai_inc : wordOf [.ai] (aluOpCode .inc) = 0x000D00#24 := by decide
@[simp] theorem wordOf_ai_and : wordOf [.ai] (aluOpCode .and) = 0x001500#24 := by decide
@[simp] theorem wordOf_ai_or : wordOf [.ai] (aluOpCode .or) = 0x001900#24 := by decide
@[simp] theorem wordOf_ai_not : wordOf [.ai] (aluOpCode .not) = 0x001D00#24 := by decide
@[simp] theorem wordOf_ai_rsh : wordOf [.ai] (aluOpCode .rsh) = 0x002100#24 := by decide
@[simp] theorem wordOf_ai_lsh : wordOf [.ai] (aluOpCode .lsh) = 0x002500#24 := by decide
@[simp] theorem wordOf_ai_mull : wordOf [.ai] (aluOpCode .mull) = 0x002900#24 := by decide
@[simp] theorem wordOf_ai_mulh : wordOf [.ai] (aluOpCode .mulh) = 0x002D00#24 := by decide
@[simp] theorem wordOf_ht : wordOf [.ht] = 0x004000#24 := by decide
@[simp] theorem wordOf_ro_bi : wordOf [.ro, .bi] = 0x008004#24 := by decide
@[simp] theorem wordOf_ro_bi_ce : wordOf [.ro, .bi, .ce] = 0x008084#24 := by decide
@[simp] theorem wordOf_ao_bi : wordOf [.ao, .bi] = 0x008200#24 := by decide
@[simp] theorem wordOf_bo_ai : wordOf [.bo, .ai] = 0x010100#24 := by decide
@[simp] theorem wordOf_ro_oi_ce : wordOf [.ro, .oi, .ce] = 0x020084#24 := by decide
@[simp] theorem wordOf_ao_oi : wordOf [.ao, .oi] = 0x020200#24 := by decide
@[simp] theorem wordOf_ro_xi_ce : wordOf [.ro, .xi, .ce] = 0x040084#24 := by decide
@[simp] theorem wordOf_ro_si_ce : wordOf [.ro, .si, .ce] = 0x080084#24 := by decide
@[simp] theorem wordOf_ao_si : wordOf [.ao, .si] = 0x080200#24 := by decide
@[simp] theorem wordOf_so_ai : wordOf [.so, .ai] = 0x100100#24 := by decide
@[simp] theorem wordOf_co_si_sa : wordOf [.co, .si, .sa] = 0x280020#24 := by decide
@[simp] theorem wordOf_so_sa_jp : wordOf [.so, .sa, .jp] = 0x300040#24 := by decide
@[simp] theorem wordOf_rf : wordOf [.rf] = 0x400000#24 := by decide
@[simp] theorem wordOf_ro_pi_ce : wordOf [.ro, .pi, .ce] = 0x800084#24 := by decide

/-! ## The index (R160, R201) -/

@[simp] theorem indexStep_indexOf (k : BitVec 3) (ir : Byte) (cf zf sf : Bool) : indexStep (indexOf k ir cf zf sf) = k := by
  ext j hj
  simp only [indexStep, indexOf, BitVec.getElem_extractLsb', BitVec.getLsbD_append]
  simp [hj]

@[simp] theorem indexByte_indexOf (k : BitVec 3) (ir : Byte) (cf zf sf : Bool) : indexByte (indexOf k ir cf zf sf) = ir := by
  ext j hj
  simp only [indexByte, indexOf, BitVec.getElem_extractLsb', BitVec.getLsbD_append]
  simp [hj]

@[simp] theorem indexOf_cf (k : BitVec 3) (ir : Byte) (cf zf sf : Bool) : (indexOf k ir cf zf sf)[11] = cf := by
  rw [← BitVec.getLsbD_eq_getElem]
  simp only [indexOf, BitVec.getLsbD_append, BitVec.getLsbD_ofBool]
  simp

@[simp] theorem indexOf_zf (k : BitVec 3) (ir : Byte) (cf zf sf : Bool) : (indexOf k ir cf zf sf)[12] = zf := by
  rw [← BitVec.getLsbD_eq_getElem]
  simp only [indexOf, BitVec.getLsbD_append, BitVec.getLsbD_ofBool]
  simp

@[simp] theorem indexOf_sf (k : BitVec 3) (ir : Byte) (cf zf sf : Bool) : (indexOf k ir cf zf sf)[13] = sf := by
  rw [← BitVec.getLsbD_eq_getElem]
  simp only [indexOf, BitVec.getLsbD_append, BitVec.getLsbD_ofBool]
  simp

/-- R207: the reference ROM at an index is the word of the frame it names. -/
@[simp] theorem romRef_indexOf (k : BitVec 3) (ir : Byte) (cf zf sf : Bool) :
    romRef (indexOf k ir cf zf sf) = microWord k ir cf zf sf := by
  simp [romRef]

/-- An index is the one of its own fields. -/
theorem indexOf_fields (idx : RomIndex) :
    indexOf (indexStep idx) (indexByte idx) (idx.getLsbD 11) (idx.getLsbD 12) (idx.getLsbD 13) = idx := by
  apply BitVec.eq_of_getLsbD_eq
  intro j hj
  simp only [indexOf, indexStep, indexByte, BitVec.getLsbD_append, BitVec.getLsbD_extractLsb', BitVec.getLsbD_ofBool]
  have : j = 0 ∨ j = 1 ∨ j = 2 ∨ j = 3 ∨ j = 4 ∨ j = 5 ∨ j = 6 ∨ j = 7 ∨ j = 8 ∨ j = 9 ∨ j = 10 ∨ j = 11 ∨ j = 12
    ∨ j = 13 := by omega
  rcases this with h | h | h | h | h | h | h | h | h | h | h | h | h | h <;> subst h <;> simp

end Sys2Proof.Machine
end

