-- ==== Sys2Proof/Laws/State.lean ====
section
/-! SUPPORT. One lemma per field and named update of the state, each true by rfl and a simp lemma, so that no later proof
unfolds a record update. -/

namespace Sys2Proof.Machine

variable (s : State)

/-! ### takeMemoryOperand -/

@[simp] theorem takeMemoryOperand_a (i : Instr) (addr : Word) : (takeMemoryOperand i addr s).a = s.a := rfl
@[simp] theorem takeMemoryOperand_b (i : Instr) (addr : Word) : (takeMemoryOperand i addr s).b = s.b := rfl
@[simp] theorem takeMemoryOperand_ir (i : Instr) (addr : Word) : (takeMemoryOperand i addr s).ir = firstByte i := rfl
@[simp] theorem takeMemoryOperand_ir2 (i : Instr) (addr : Word) : (takeMemoryOperand i addr s).ir2 = addr.extractLsb' 0 8 := rfl
@[simp] theorem takeMemoryOperand_out (i : Instr) (addr : Word) : (takeMemoryOperand i addr s).out = s.out := rfl
@[simp] theorem takeMemoryOperand_pc (i : Instr) (addr : Word) : (takeMemoryOperand i addr s).pc = s.pc + 2 := rfl
@[simp] theorem takeMemoryOperand_cf (i : Instr) (addr : Word) : (takeMemoryOperand i addr s).cf = s.cf := rfl
@[simp] theorem takeMemoryOperand_zf (i : Instr) (addr : Word) : (takeMemoryOperand i addr s).zf = s.zf := rfl
@[simp] theorem takeMemoryOperand_sf (i : Instr) (addr : Word) : (takeMemoryOperand i addr s).sf = s.sf := rfl
@[simp] theorem takeMemoryOperand_mar (i : Instr) (addr : Word) : (takeMemoryOperand i addr s).mar = addr := rfl
@[simp] theorem takeMemoryOperand_sp (i : Instr) (addr : Word) : (takeMemoryOperand i addr s).sp = s.sp := rfl
@[simp] theorem takeMemoryOperand_stk (i : Instr) (addr : Word) : (takeMemoryOperand i addr s).stk = s.stk := rfl
@[simp] theorem takeMemoryOperand_microStep (i : Instr) (addr : Word) : (takeMemoryOperand i addr s).microStep = s.microStep := rfl
@[simp] theorem takeMemoryOperand_cw (i : Instr) (addr : Word) : (takeMemoryOperand i addr s).cw = s.cw := rfl
@[simp] theorem takeMemoryOperand_ram (i : Instr) (addr : Word) : (takeMemoryOperand i addr s).ram = s.ram := rfl
@[simp] theorem takeMemoryOperand_halted (i : Instr) (addr : Word) : (takeMemoryOperand i addr s).halted = s.halted := rfl
@[simp] theorem takeMemoryOperand_hostStop (i : Instr) (addr : Word) : (takeMemoryOperand i addr s).hostStop = s.hostStop := rfl
@[simp] theorem takeMemoryOperand_screenPtr (i : Instr) (addr : Word) : (takeMemoryOperand i addr s).screenPtr = s.screenPtr := rfl
@[simp] theorem takeMemoryOperand_screenEvents (i : Instr) (addr : Word) : (takeMemoryOperand i addr s).screenEvents = s.screenEvents := rfl
@[simp] theorem takeMemoryOperand_outTrace (i : Instr) (addr : Word) : (takeMemoryOperand i addr s).outTrace = s.outTrace := rfl
@[simp] theorem takeMemoryOperand_freeCount (i : Instr) (addr : Word) : (takeMemoryOperand i addr s).freeCount = s.freeCount := rfl

/-! ### takeTarget -/

@[simp] theorem takeTarget_a (i : Instr) (target : Word) : (takeTarget i target s).a = s.a := rfl
@[simp] theorem takeTarget_b (i : Instr) (target : Word) : (takeTarget i target s).b = s.b := rfl
@[simp] theorem takeTarget_ir (i : Instr) (target : Word) : (takeTarget i target s).ir = firstByte i := rfl
@[simp] theorem takeTarget_ir2 (i : Instr) (target : Word) : (takeTarget i target s).ir2 = target.extractLsb' 0 8 := rfl
@[simp] theorem takeTarget_out (i : Instr) (target : Word) : (takeTarget i target s).out = s.out := rfl
@[simp] theorem takeTarget_pc (i : Instr) (target : Word) : (takeTarget i target s).pc = s.pc + 2 := rfl
@[simp] theorem takeTarget_cf (i : Instr) (target : Word) : (takeTarget i target s).cf = s.cf := rfl
@[simp] theorem takeTarget_zf (i : Instr) (target : Word) : (takeTarget i target s).zf = s.zf := rfl
@[simp] theorem takeTarget_sf (i : Instr) (target : Word) : (takeTarget i target s).sf = s.sf := rfl
@[simp] theorem takeTarget_mar (i : Instr) (target : Word) : (takeTarget i target s).mar = s.pc + 1 := rfl
@[simp] theorem takeTarget_sp (i : Instr) (target : Word) : (takeTarget i target s).sp = s.sp := rfl
@[simp] theorem takeTarget_stk (i : Instr) (target : Word) : (takeTarget i target s).stk = s.stk := rfl
@[simp] theorem takeTarget_microStep (i : Instr) (target : Word) : (takeTarget i target s).microStep = s.microStep := rfl
@[simp] theorem takeTarget_cw (i : Instr) (target : Word) : (takeTarget i target s).cw = s.cw := rfl
@[simp] theorem takeTarget_ram (i : Instr) (target : Word) : (takeTarget i target s).ram = s.ram := rfl
@[simp] theorem takeTarget_halted (i : Instr) (target : Word) : (takeTarget i target s).halted = s.halted := rfl
@[simp] theorem takeTarget_hostStop (i : Instr) (target : Word) : (takeTarget i target s).hostStop = s.hostStop := rfl
@[simp] theorem takeTarget_screenPtr (i : Instr) (target : Word) : (takeTarget i target s).screenPtr = s.screenPtr := rfl
@[simp] theorem takeTarget_screenEvents (i : Instr) (target : Word) : (takeTarget i target s).screenEvents = s.screenEvents := rfl
@[simp] theorem takeTarget_outTrace (i : Instr) (target : Word) : (takeTarget i target s).outTrace = s.outTrace := rfl
@[simp] theorem takeTarget_freeCount (i : Instr) (target : Word) : (takeTarget i target s).freeCount = s.freeCount := rfl

/-! ### skipTarget -/

@[simp] theorem skipTarget_a (i : Instr) : (skipTarget i s).a = s.a := rfl
@[simp] theorem skipTarget_b (i : Instr) : (skipTarget i s).b = s.b := rfl
@[simp] theorem skipTarget_ir (i : Instr) : (skipTarget i s).ir = firstByte i := rfl
@[simp] theorem skipTarget_ir2 (i : Instr) : (skipTarget i s).ir2 = s.ir2 := rfl
@[simp] theorem skipTarget_out (i : Instr) : (skipTarget i s).out = s.out := rfl
@[simp] theorem skipTarget_pc (i : Instr) : (skipTarget i s).pc = s.pc + 2 := rfl
@[simp] theorem skipTarget_cf (i : Instr) : (skipTarget i s).cf = s.cf := rfl
@[simp] theorem skipTarget_zf (i : Instr) : (skipTarget i s).zf = s.zf := rfl
@[simp] theorem skipTarget_sf (i : Instr) : (skipTarget i s).sf = s.sf := rfl
@[simp] theorem skipTarget_mar (i : Instr) : (skipTarget i s).mar = s.pc := rfl
@[simp] theorem skipTarget_sp (i : Instr) : (skipTarget i s).sp = s.sp := rfl
@[simp] theorem skipTarget_stk (i : Instr) : (skipTarget i s).stk = s.stk := rfl
@[simp] theorem skipTarget_microStep (i : Instr) : (skipTarget i s).microStep = s.microStep := rfl
@[simp] theorem skipTarget_cw (i : Instr) : (skipTarget i s).cw = s.cw := rfl
@[simp] theorem skipTarget_ram (i : Instr) : (skipTarget i s).ram = s.ram := rfl
@[simp] theorem skipTarget_halted (i : Instr) : (skipTarget i s).halted = s.halted := rfl
@[simp] theorem skipTarget_hostStop (i : Instr) : (skipTarget i s).hostStop = s.hostStop := rfl
@[simp] theorem skipTarget_screenPtr (i : Instr) : (skipTarget i s).screenPtr = s.screenPtr := rfl
@[simp] theorem skipTarget_screenEvents (i : Instr) : (skipTarget i s).screenEvents = s.screenEvents := rfl
@[simp] theorem skipTarget_outTrace (i : Instr) : (skipTarget i s).outTrace = s.outTrace := rfl
@[simp] theorem skipTarget_freeCount (i : Instr) : (skipTarget i s).freeCount = s.freeCount := rfl

/-! ### takeImmediate -/

@[simp] theorem takeImmediate_a (i : Instr) : (takeImmediate i s).a = s.a := rfl
@[simp] theorem takeImmediate_b (i : Instr) : (takeImmediate i s).b = s.b := rfl
@[simp] theorem takeImmediate_ir (i : Instr) : (takeImmediate i s).ir = firstByte i := rfl
@[simp] theorem takeImmediate_ir2 (i : Instr) : (takeImmediate i s).ir2 = s.ir2 := rfl
@[simp] theorem takeImmediate_out (i : Instr) : (takeImmediate i s).out = s.out := rfl
@[simp] theorem takeImmediate_pc (i : Instr) : (takeImmediate i s).pc = s.pc + 2 := rfl
@[simp] theorem takeImmediate_cf (i : Instr) : (takeImmediate i s).cf = s.cf := rfl
@[simp] theorem takeImmediate_zf (i : Instr) : (takeImmediate i s).zf = s.zf := rfl
@[simp] theorem takeImmediate_sf (i : Instr) : (takeImmediate i s).sf = s.sf := rfl
@[simp] theorem takeImmediate_mar (i : Instr) : (takeImmediate i s).mar = s.pc + 1 := rfl
@[simp] theorem takeImmediate_sp (i : Instr) : (takeImmediate i s).sp = s.sp := rfl
@[simp] theorem takeImmediate_stk (i : Instr) : (takeImmediate i s).stk = s.stk := rfl
@[simp] theorem takeImmediate_microStep (i : Instr) : (takeImmediate i s).microStep = s.microStep := rfl
@[simp] theorem takeImmediate_cw (i : Instr) : (takeImmediate i s).cw = s.cw := rfl
@[simp] theorem takeImmediate_ram (i : Instr) : (takeImmediate i s).ram = s.ram := rfl
@[simp] theorem takeImmediate_halted (i : Instr) : (takeImmediate i s).halted = s.halted := rfl
@[simp] theorem takeImmediate_hostStop (i : Instr) : (takeImmediate i s).hostStop = s.hostStop := rfl
@[simp] theorem takeImmediate_screenPtr (i : Instr) : (takeImmediate i s).screenPtr = s.screenPtr := rfl
@[simp] theorem takeImmediate_screenEvents (i : Instr) : (takeImmediate i s).screenEvents = s.screenEvents := rfl
@[simp] theorem takeImmediate_outTrace (i : Instr) : (takeImmediate i s).outTrace = s.outTrace := rfl
@[simp] theorem takeImmediate_freeCount (i : Instr) : (takeImmediate i s).freeCount = s.freeCount := rfl

/-! ### takeNone -/

@[simp] theorem takeNone_a (i : Instr) : (takeNone i s).a = s.a := rfl
@[simp] theorem takeNone_b (i : Instr) : (takeNone i s).b = s.b := rfl
@[simp] theorem takeNone_ir (i : Instr) : (takeNone i s).ir = firstByte i := rfl
@[simp] theorem takeNone_ir2 (i : Instr) : (takeNone i s).ir2 = s.ir2 := rfl
@[simp] theorem takeNone_out (i : Instr) : (takeNone i s).out = s.out := rfl
@[simp] theorem takeNone_pc (i : Instr) : (takeNone i s).pc = s.pc + 1 := rfl
@[simp] theorem takeNone_cf (i : Instr) : (takeNone i s).cf = s.cf := rfl
@[simp] theorem takeNone_zf (i : Instr) : (takeNone i s).zf = s.zf := rfl
@[simp] theorem takeNone_sf (i : Instr) : (takeNone i s).sf = s.sf := rfl
@[simp] theorem takeNone_mar (i : Instr) : (takeNone i s).mar = s.pc := rfl
@[simp] theorem takeNone_sp (i : Instr) : (takeNone i s).sp = s.sp := rfl
@[simp] theorem takeNone_stk (i : Instr) : (takeNone i s).stk = s.stk := rfl
@[simp] theorem takeNone_microStep (i : Instr) : (takeNone i s).microStep = s.microStep := rfl
@[simp] theorem takeNone_cw (i : Instr) : (takeNone i s).cw = s.cw := rfl
@[simp] theorem takeNone_ram (i : Instr) : (takeNone i s).ram = s.ram := rfl
@[simp] theorem takeNone_halted (i : Instr) : (takeNone i s).halted = s.halted := rfl
@[simp] theorem takeNone_hostStop (i : Instr) : (takeNone i s).hostStop = s.hostStop := rfl
@[simp] theorem takeNone_screenPtr (i : Instr) : (takeNone i s).screenPtr = s.screenPtr := rfl
@[simp] theorem takeNone_screenEvents (i : Instr) : (takeNone i s).screenEvents = s.screenEvents := rfl
@[simp] theorem takeNone_outTrace (i : Instr) : (takeNone i s).outTrace = s.outTrace := rfl
@[simp] theorem takeNone_freeCount (i : Instr) : (takeNone i s).freeCount = s.freeCount := rfl

/-! ### jumpTo -/

@[simp] theorem jumpTo_a (i : Instr) (target : Word) : (jumpTo i target s).a = s.a := rfl
@[simp] theorem jumpTo_b (i : Instr) (target : Word) : (jumpTo i target s).b = s.b := rfl
@[simp] theorem jumpTo_ir (i : Instr) (target : Word) : (jumpTo i target s).ir = firstByte i := rfl
@[simp] theorem jumpTo_ir2 (i : Instr) (target : Word) : (jumpTo i target s).ir2 = target.extractLsb' 0 8 := rfl
@[simp] theorem jumpTo_out (i : Instr) (target : Word) : (jumpTo i target s).out = s.out := rfl
@[simp] theorem jumpTo_pc (i : Instr) (target : Word) : (jumpTo i target s).pc = target := rfl
@[simp] theorem jumpTo_cf (i : Instr) (target : Word) : (jumpTo i target s).cf = s.cf := rfl
@[simp] theorem jumpTo_zf (i : Instr) (target : Word) : (jumpTo i target s).zf = s.zf := rfl
@[simp] theorem jumpTo_sf (i : Instr) (target : Word) : (jumpTo i target s).sf = s.sf := rfl
@[simp] theorem jumpTo_mar (i : Instr) (target : Word) : (jumpTo i target s).mar = s.pc + 1 := rfl
@[simp] theorem jumpTo_sp (i : Instr) (target : Word) : (jumpTo i target s).sp = s.sp := rfl
@[simp] theorem jumpTo_stk (i : Instr) (target : Word) : (jumpTo i target s).stk = s.stk := rfl
@[simp] theorem jumpTo_microStep (i : Instr) (target : Word) : (jumpTo i target s).microStep = s.microStep := rfl
@[simp] theorem jumpTo_cw (i : Instr) (target : Word) : (jumpTo i target s).cw = s.cw := rfl
@[simp] theorem jumpTo_ram (i : Instr) (target : Word) : (jumpTo i target s).ram = s.ram := rfl
@[simp] theorem jumpTo_halted (i : Instr) (target : Word) : (jumpTo i target s).halted = s.halted := rfl
@[simp] theorem jumpTo_hostStop (i : Instr) (target : Word) : (jumpTo i target s).hostStop = s.hostStop := rfl
@[simp] theorem jumpTo_screenPtr (i : Instr) (target : Word) : (jumpTo i target s).screenPtr = s.screenPtr := rfl
@[simp] theorem jumpTo_screenEvents (i : Instr) (target : Word) : (jumpTo i target s).screenEvents = s.screenEvents := rfl
@[simp] theorem jumpTo_outTrace (i : Instr) (target : Word) : (jumpTo i target s).outTrace = s.outTrace := rfl
@[simp] theorem jumpTo_freeCount (i : Instr) (target : Word) : (jumpTo i target s).freeCount = s.freeCount := rfl

/-! ### setFlags -/

@[simp] theorem setFlags_a (op : AluOp) (x y : Byte) : (setFlags op x y s).a = s.a := rfl
@[simp] theorem setFlags_b (op : AluOp) (x y : Byte) : (setFlags op x y s).b = s.b := rfl
@[simp] theorem setFlags_ir (op : AluOp) (x y : Byte) : (setFlags op x y s).ir = s.ir := rfl
@[simp] theorem setFlags_ir2 (op : AluOp) (x y : Byte) : (setFlags op x y s).ir2 = s.ir2 := rfl
@[simp] theorem setFlags_out (op : AluOp) (x y : Byte) : (setFlags op x y s).out = s.out := rfl
@[simp] theorem setFlags_pc (op : AluOp) (x y : Byte) : (setFlags op x y s).pc = s.pc := rfl
@[simp] theorem setFlags_cf (op : AluOp) (x y : Byte) : (setFlags op x y s).cf = (aluCarry op x y).getD s.cf := rfl
@[simp] theorem setFlags_zf (op : AluOp) (x y : Byte) : (setFlags op x y s).zf = (aluResult op x y == 0) := rfl
@[simp] theorem setFlags_sf (op : AluOp) (x y : Byte) : (setFlags op x y s).sf = (aluResult op x y).getLsbD 7 := rfl
@[simp] theorem setFlags_mar (op : AluOp) (x y : Byte) : (setFlags op x y s).mar = s.mar := rfl
@[simp] theorem setFlags_sp (op : AluOp) (x y : Byte) : (setFlags op x y s).sp = s.sp := rfl
@[simp] theorem setFlags_stk (op : AluOp) (x y : Byte) : (setFlags op x y s).stk = s.stk := rfl
@[simp] theorem setFlags_microStep (op : AluOp) (x y : Byte) : (setFlags op x y s).microStep = s.microStep := rfl
@[simp] theorem setFlags_cw (op : AluOp) (x y : Byte) : (setFlags op x y s).cw = s.cw := rfl
@[simp] theorem setFlags_ram (op : AluOp) (x y : Byte) : (setFlags op x y s).ram = s.ram := rfl
@[simp] theorem setFlags_halted (op : AluOp) (x y : Byte) : (setFlags op x y s).halted = s.halted := rfl
@[simp] theorem setFlags_hostStop (op : AluOp) (x y : Byte) : (setFlags op x y s).hostStop = s.hostStop := rfl
@[simp] theorem setFlags_screenPtr (op : AluOp) (x y : Byte) : (setFlags op x y s).screenPtr = s.screenPtr := rfl
@[simp] theorem setFlags_screenEvents (op : AluOp) (x y : Byte) : (setFlags op x y s).screenEvents = s.screenEvents := rfl
@[simp] theorem setFlags_outTrace (op : AluOp) (x y : Byte) : (setFlags op x y s).outTrace = s.outTrace := rfl
@[simp] theorem setFlags_freeCount (op : AluOp) (x y : Byte) : (setFlags op x y s).freeCount = s.freeCount := rfl

/-! ### aluToA -/

@[simp] theorem aluToA_a (op : AluOp) : (aluToA op s).a = aluResult op s.a s.b := rfl
@[simp] theorem aluToA_b (op : AluOp) : (aluToA op s).b = s.b := rfl
@[simp] theorem aluToA_ir (op : AluOp) : (aluToA op s).ir = s.ir := rfl
@[simp] theorem aluToA_ir2 (op : AluOp) : (aluToA op s).ir2 = s.ir2 := rfl
@[simp] theorem aluToA_out (op : AluOp) : (aluToA op s).out = s.out := rfl
@[simp] theorem aluToA_pc (op : AluOp) : (aluToA op s).pc = s.pc := rfl
@[simp] theorem aluToA_cf (op : AluOp) : (aluToA op s).cf = (aluCarry op s.a s.b).getD s.cf := rfl
@[simp] theorem aluToA_zf (op : AluOp) : (aluToA op s).zf = (aluResult op s.a s.b == 0) := rfl
@[simp] theorem aluToA_sf (op : AluOp) : (aluToA op s).sf = (aluResult op s.a s.b).getLsbD 7 := rfl
@[simp] theorem aluToA_mar (op : AluOp) : (aluToA op s).mar = s.mar := rfl
@[simp] theorem aluToA_sp (op : AluOp) : (aluToA op s).sp = s.sp := rfl
@[simp] theorem aluToA_stk (op : AluOp) : (aluToA op s).stk = s.stk := rfl
@[simp] theorem aluToA_microStep (op : AluOp) : (aluToA op s).microStep = s.microStep := rfl
@[simp] theorem aluToA_cw (op : AluOp) : (aluToA op s).cw = s.cw := rfl
@[simp] theorem aluToA_ram (op : AluOp) : (aluToA op s).ram = s.ram := rfl
@[simp] theorem aluToA_halted (op : AluOp) : (aluToA op s).halted = s.halted := rfl
@[simp] theorem aluToA_hostStop (op : AluOp) : (aluToA op s).hostStop = s.hostStop := rfl
@[simp] theorem aluToA_screenPtr (op : AluOp) : (aluToA op s).screenPtr = s.screenPtr := rfl
@[simp] theorem aluToA_screenEvents (op : AluOp) : (aluToA op s).screenEvents = s.screenEvents := rfl
@[simp] theorem aluToA_outTrace (op : AluOp) : (aluToA op s).outTrace = s.outTrace := rfl
@[simp] theorem aluToA_freeCount (op : AluOp) : (aluToA op s).freeCount = s.freeCount := rfl

/-! ### writeByte -/

@[simp] theorem writeByte_a (addr : Word) (v : Byte) : (writeByte addr v s).a = s.a := rfl
@[simp] theorem writeByte_b (addr : Word) (v : Byte) : (writeByte addr v s).b = s.b := rfl
@[simp] theorem writeByte_ir (addr : Word) (v : Byte) : (writeByte addr v s).ir = s.ir := rfl
@[simp] theorem writeByte_ir2 (addr : Word) (v : Byte) : (writeByte addr v s).ir2 = s.ir2 := rfl
@[simp] theorem writeByte_out (addr : Word) (v : Byte) : (writeByte addr v s).out = s.out := rfl
@[simp] theorem writeByte_pc (addr : Word) (v : Byte) : (writeByte addr v s).pc = s.pc := rfl
@[simp] theorem writeByte_cf (addr : Word) (v : Byte) : (writeByte addr v s).cf = s.cf := rfl
@[simp] theorem writeByte_zf (addr : Word) (v : Byte) : (writeByte addr v s).zf = s.zf := rfl
@[simp] theorem writeByte_sf (addr : Word) (v : Byte) : (writeByte addr v s).sf = s.sf := rfl
@[simp] theorem writeByte_mar (addr : Word) (v : Byte) : (writeByte addr v s).mar = s.mar := rfl
@[simp] theorem writeByte_sp (addr : Word) (v : Byte) : (writeByte addr v s).sp = s.sp := rfl
@[simp] theorem writeByte_stk (addr : Word) (v : Byte) : (writeByte addr v s).stk = s.stk := rfl
@[simp] theorem writeByte_microStep (addr : Word) (v : Byte) : (writeByte addr v s).microStep = s.microStep := rfl
@[simp] theorem writeByte_cw (addr : Word) (v : Byte) : (writeByte addr v s).cw = s.cw := rfl
@[simp] theorem writeByte_ram (addr : Word) (v : Byte) : (writeByte addr v s).ram = Memory.write s.ram addr.toNat v := rfl
@[simp] theorem writeByte_halted (addr : Word) (v : Byte) : (writeByte addr v s).halted = s.halted := rfl
@[simp] theorem writeByte_hostStop (addr : Word) (v : Byte) : (writeByte addr v s).hostStop = s.hostStop := rfl
@[simp] theorem writeByte_screenPtr (addr : Word) (v : Byte) : (writeByte addr v s).screenPtr = s.screenPtr := rfl
@[simp] theorem writeByte_screenEvents (addr : Word) (v : Byte) : (writeByte addr v s).screenEvents = s.screenEvents := rfl
@[simp] theorem writeByte_outTrace (addr : Word) (v : Byte) : (writeByte addr v s).outTrace = s.outTrace := rfl
@[simp] theorem writeByte_freeCount (addr : Word) (v : Byte) : (writeByte addr v s).freeCount = s.freeCount := rfl

/-! ### pushWord -/

@[simp] theorem pushWord_a (v : Word) : (pushWord v s).a = s.a := rfl
@[simp] theorem pushWord_b (v : Word) : (pushWord v s).b = s.b := rfl
@[simp] theorem pushWord_ir (v : Word) : (pushWord v s).ir = s.ir := rfl
@[simp] theorem pushWord_ir2 (v : Word) : (pushWord v s).ir2 = s.ir2 := rfl
@[simp] theorem pushWord_out (v : Word) : (pushWord v s).out = s.out := rfl
@[simp] theorem pushWord_pc (v : Word) : (pushWord v s).pc = s.pc := rfl
@[simp] theorem pushWord_cf (v : Word) : (pushWord v s).cf = s.cf := rfl
@[simp] theorem pushWord_zf (v : Word) : (pushWord v s).zf = s.zf := rfl
@[simp] theorem pushWord_sf (v : Word) : (pushWord v s).sf = s.sf := rfl
@[simp] theorem pushWord_mar (v : Word) : (pushWord v s).mar = s.mar := rfl
@[simp] theorem pushWord_sp (v : Word) : (pushWord v s).sp = s.sp + 1 := rfl
@[simp] theorem pushWord_stk (v : Word) : (pushWord v s).stk = s.stk.set s.sp.toNat v s.sp.isLt := rfl
@[simp] theorem pushWord_microStep (v : Word) : (pushWord v s).microStep = s.microStep := rfl
@[simp] theorem pushWord_cw (v : Word) : (pushWord v s).cw = s.cw := rfl
@[simp] theorem pushWord_ram (v : Word) : (pushWord v s).ram = s.ram := rfl
@[simp] theorem pushWord_halted (v : Word) : (pushWord v s).halted = s.halted := rfl
@[simp] theorem pushWord_hostStop (v : Word) : (pushWord v s).hostStop = s.hostStop := rfl
@[simp] theorem pushWord_screenPtr (v : Word) : (pushWord v s).screenPtr = s.screenPtr := rfl
@[simp] theorem pushWord_screenEvents (v : Word) : (pushWord v s).screenEvents = s.screenEvents := rfl
@[simp] theorem pushWord_outTrace (v : Word) : (pushWord v s).outTrace = s.outTrace := rfl
@[simp] theorem pushWord_freeCount (v : Word) : (pushWord v s).freeCount = s.freeCount := rfl

/-! ### pushByte -/

@[simp] theorem pushByte_a (v : Byte) : (pushByte v s).a = s.a := rfl
@[simp] theorem pushByte_b (v : Byte) : (pushByte v s).b = s.b := rfl
@[simp] theorem pushByte_ir (v : Byte) : (pushByte v s).ir = s.ir := rfl
@[simp] theorem pushByte_ir2 (v : Byte) : (pushByte v s).ir2 = s.ir2 := rfl
@[simp] theorem pushByte_out (v : Byte) : (pushByte v s).out = s.out := rfl
@[simp] theorem pushByte_pc (v : Byte) : (pushByte v s).pc = s.pc := rfl
@[simp] theorem pushByte_cf (v : Byte) : (pushByte v s).cf = s.cf := rfl
@[simp] theorem pushByte_zf (v : Byte) : (pushByte v s).zf = s.zf := rfl
@[simp] theorem pushByte_sf (v : Byte) : (pushByte v s).sf = s.sf := rfl
@[simp] theorem pushByte_mar (v : Byte) : (pushByte v s).mar = s.mar := rfl
@[simp] theorem pushByte_sp (v : Byte) : (pushByte v s).sp = s.sp + 1 := rfl
@[simp] theorem pushByte_stk (v : Byte) : (pushByte v s).stk = s.stk.set s.sp.toNat (Config.freeNibble s.freeCount ++ v) s.sp.isLt := rfl
@[simp] theorem pushByte_microStep (v : Byte) : (pushByte v s).microStep = s.microStep := rfl
@[simp] theorem pushByte_cw (v : Byte) : (pushByte v s).cw = s.cw := rfl
@[simp] theorem pushByte_ram (v : Byte) : (pushByte v s).ram = s.ram := rfl
@[simp] theorem pushByte_halted (v : Byte) : (pushByte v s).halted = s.halted := rfl
@[simp] theorem pushByte_hostStop (v : Byte) : (pushByte v s).hostStop = s.hostStop := rfl
@[simp] theorem pushByte_screenPtr (v : Byte) : (pushByte v s).screenPtr = s.screenPtr := rfl
@[simp] theorem pushByte_screenEvents (v : Byte) : (pushByte v s).screenEvents = s.screenEvents := rfl
@[simp] theorem pushByte_outTrace (v : Byte) : (pushByte v s).outTrace = s.outTrace := rfl
@[simp] theorem pushByte_freeCount (v : Byte) : (pushByte v s).freeCount = s.freeCount + 1 := rfl

/-! ### dropCell -/

@[simp] theorem dropCell_a : (dropCell s).a = s.a := rfl
@[simp] theorem dropCell_b : (dropCell s).b = s.b := rfl
@[simp] theorem dropCell_ir : (dropCell s).ir = s.ir := rfl
@[simp] theorem dropCell_ir2 : (dropCell s).ir2 = s.ir2 := rfl
@[simp] theorem dropCell_out : (dropCell s).out = s.out := rfl
@[simp] theorem dropCell_pc : (dropCell s).pc = s.pc := rfl
@[simp] theorem dropCell_cf : (dropCell s).cf = s.cf := rfl
@[simp] theorem dropCell_zf : (dropCell s).zf = s.zf := rfl
@[simp] theorem dropCell_sf : (dropCell s).sf = s.sf := rfl
@[simp] theorem dropCell_mar : (dropCell s).mar = s.mar := rfl
@[simp] theorem dropCell_sp : (dropCell s).sp = s.sp - 1 := rfl
@[simp] theorem dropCell_stk : (dropCell s).stk = s.stk := rfl
@[simp] theorem dropCell_microStep : (dropCell s).microStep = s.microStep := rfl
@[simp] theorem dropCell_cw : (dropCell s).cw = s.cw := rfl
@[simp] theorem dropCell_ram : (dropCell s).ram = s.ram := rfl
@[simp] theorem dropCell_halted : (dropCell s).halted = s.halted := rfl
@[simp] theorem dropCell_hostStop : (dropCell s).hostStop = s.hostStop := rfl
@[simp] theorem dropCell_screenPtr : (dropCell s).screenPtr = s.screenPtr := rfl
@[simp] theorem dropCell_screenEvents : (dropCell s).screenEvents = s.screenEvents := rfl
@[simp] theorem dropCell_outTrace : (dropCell s).outTrace = s.outTrace := rfl
@[simp] theorem dropCell_freeCount : (dropCell s).freeCount = s.freeCount := rfl

/-! ### writeOut -/

@[simp] theorem writeOut_a (v : Byte) : (writeOut v s).a = s.a := rfl
@[simp] theorem writeOut_b (v : Byte) : (writeOut v s).b = s.b := rfl
@[simp] theorem writeOut_ir (v : Byte) : (writeOut v s).ir = s.ir := rfl
@[simp] theorem writeOut_ir2 (v : Byte) : (writeOut v s).ir2 = s.ir2 := rfl
@[simp] theorem writeOut_out (v : Byte) : (writeOut v s).out = v := rfl
@[simp] theorem writeOut_pc (v : Byte) : (writeOut v s).pc = s.pc := rfl
@[simp] theorem writeOut_cf (v : Byte) : (writeOut v s).cf = s.cf := rfl
@[simp] theorem writeOut_zf (v : Byte) : (writeOut v s).zf = s.zf := rfl
@[simp] theorem writeOut_sf (v : Byte) : (writeOut v s).sf = s.sf := rfl
@[simp] theorem writeOut_mar (v : Byte) : (writeOut v s).mar = s.mar := rfl
@[simp] theorem writeOut_sp (v : Byte) : (writeOut v s).sp = s.sp := rfl
@[simp] theorem writeOut_stk (v : Byte) : (writeOut v s).stk = s.stk := rfl
@[simp] theorem writeOut_microStep (v : Byte) : (writeOut v s).microStep = s.microStep := rfl
@[simp] theorem writeOut_cw (v : Byte) : (writeOut v s).cw = s.cw := rfl
@[simp] theorem writeOut_ram (v : Byte) : (writeOut v s).ram = s.ram := rfl
@[simp] theorem writeOut_halted (v : Byte) : (writeOut v s).halted = s.halted := rfl
@[simp] theorem writeOut_hostStop (v : Byte) : (writeOut v s).hostStop = s.hostStop := rfl
@[simp] theorem writeOut_screenPtr (v : Byte) : (writeOut v s).screenPtr = s.screenPtr := rfl
@[simp] theorem writeOut_screenEvents (v : Byte) : (writeOut v s).screenEvents = s.screenEvents := rfl
@[simp] theorem writeOut_outTrace (v : Byte) : (writeOut v s).outTrace = v :: s.outTrace := rfl
@[simp] theorem writeOut_freeCount (v : Byte) : (writeOut v s).freeCount = s.freeCount := rfl

/-! ### emitPointer -/

@[simp] theorem emitPointer_a (v : Byte) : (emitPointer v s).a = s.a := rfl
@[simp] theorem emitPointer_b (v : Byte) : (emitPointer v s).b = s.b := rfl
@[simp] theorem emitPointer_ir (v : Byte) : (emitPointer v s).ir = s.ir := rfl
@[simp] theorem emitPointer_ir2 (v : Byte) : (emitPointer v s).ir2 = s.ir2 := rfl
@[simp] theorem emitPointer_out (v : Byte) : (emitPointer v s).out = s.out := rfl
@[simp] theorem emitPointer_pc (v : Byte) : (emitPointer v s).pc = s.pc := rfl
@[simp] theorem emitPointer_cf (v : Byte) : (emitPointer v s).cf = s.cf := rfl
@[simp] theorem emitPointer_zf (v : Byte) : (emitPointer v s).zf = s.zf := rfl
@[simp] theorem emitPointer_sf (v : Byte) : (emitPointer v s).sf = s.sf := rfl
@[simp] theorem emitPointer_mar (v : Byte) : (emitPointer v s).mar = s.mar := rfl
@[simp] theorem emitPointer_sp (v : Byte) : (emitPointer v s).sp = s.sp := rfl
@[simp] theorem emitPointer_stk (v : Byte) : (emitPointer v s).stk = s.stk := rfl
@[simp] theorem emitPointer_microStep (v : Byte) : (emitPointer v s).microStep = s.microStep := rfl
@[simp] theorem emitPointer_cw (v : Byte) : (emitPointer v s).cw = s.cw := rfl
@[simp] theorem emitPointer_ram (v : Byte) : (emitPointer v s).ram = s.ram := rfl
@[simp] theorem emitPointer_halted (v : Byte) : (emitPointer v s).halted = s.halted := rfl
@[simp] theorem emitPointer_hostStop (v : Byte) : (emitPointer v s).hostStop = s.hostStop := rfl
@[simp] theorem emitPointer_screenPtr (v : Byte) : (emitPointer v s).screenPtr = v := rfl
@[simp] theorem emitPointer_screenEvents (v : Byte) : (emitPointer v s).screenEvents = .pi v :: s.screenEvents := rfl
@[simp] theorem emitPointer_outTrace (v : Byte) : (emitPointer v s).outTrace = s.outTrace := rfl
@[simp] theorem emitPointer_freeCount (v : Byte) : (emitPointer v s).freeCount = s.freeCount := rfl

/-! ### emitRefresh -/

@[simp] theorem emitRefresh_a : (emitRefresh s).a = s.a := rfl
@[simp] theorem emitRefresh_b : (emitRefresh s).b = s.b := rfl
@[simp] theorem emitRefresh_ir : (emitRefresh s).ir = s.ir := rfl
@[simp] theorem emitRefresh_ir2 : (emitRefresh s).ir2 = s.ir2 := rfl
@[simp] theorem emitRefresh_out : (emitRefresh s).out = s.out := rfl
@[simp] theorem emitRefresh_pc : (emitRefresh s).pc = s.pc := rfl
@[simp] theorem emitRefresh_cf : (emitRefresh s).cf = s.cf := rfl
@[simp] theorem emitRefresh_zf : (emitRefresh s).zf = s.zf := rfl
@[simp] theorem emitRefresh_sf : (emitRefresh s).sf = s.sf := rfl
@[simp] theorem emitRefresh_mar : (emitRefresh s).mar = s.mar := rfl
@[simp] theorem emitRefresh_sp : (emitRefresh s).sp = s.sp := rfl
@[simp] theorem emitRefresh_stk : (emitRefresh s).stk = s.stk := rfl
@[simp] theorem emitRefresh_microStep : (emitRefresh s).microStep = s.microStep := rfl
@[simp] theorem emitRefresh_cw : (emitRefresh s).cw = s.cw := rfl
@[simp] theorem emitRefresh_ram : (emitRefresh s).ram = s.ram := rfl
@[simp] theorem emitRefresh_halted : (emitRefresh s).halted = s.halted := rfl
@[simp] theorem emitRefresh_hostStop : (emitRefresh s).hostStop = s.hostStop := rfl
@[simp] theorem emitRefresh_screenPtr : (emitRefresh s).screenPtr = s.screenPtr := rfl
@[simp] theorem emitRefresh_screenEvents : (emitRefresh s).screenEvents = .rf :: s.screenEvents := rfl
@[simp] theorem emitRefresh_outTrace : (emitRefresh s).outTrace = s.outTrace := rfl
@[simp] theorem emitRefresh_freeCount : (emitRefresh s).freeCount = s.freeCount := rfl

/-! ### endInstruction -/

@[simp] theorem endInstruction_a : (endInstruction s).a = s.a := rfl
@[simp] theorem endInstruction_b : (endInstruction s).b = s.b := rfl
@[simp] theorem endInstruction_ir : (endInstruction s).ir = s.ir := rfl
@[simp] theorem endInstruction_ir2 : (endInstruction s).ir2 = s.ir2 := rfl
@[simp] theorem endInstruction_out : (endInstruction s).out = s.out := rfl
@[simp] theorem endInstruction_pc : (endInstruction s).pc = s.pc := rfl
@[simp] theorem endInstruction_cf : (endInstruction s).cf = s.cf := rfl
@[simp] theorem endInstruction_zf : (endInstruction s).zf = s.zf := rfl
@[simp] theorem endInstruction_sf : (endInstruction s).sf = s.sf := rfl
@[simp] theorem endInstruction_mar : (endInstruction s).mar = s.mar := rfl
@[simp] theorem endInstruction_sp : (endInstruction s).sp = s.sp := rfl
@[simp] theorem endInstruction_stk : (endInstruction s).stk = s.stk := rfl
@[simp] theorem endInstruction_microStep : (endInstruction s).microStep = 0 := rfl
@[simp] theorem endInstruction_cw : (endInstruction s).cw = 0 := rfl
@[simp] theorem endInstruction_ram : (endInstruction s).ram = s.ram := rfl
@[simp] theorem endInstruction_halted : (endInstruction s).halted = s.halted := rfl
@[simp] theorem endInstruction_hostStop : (endInstruction s).hostStop = s.hostStop := rfl
@[simp] theorem endInstruction_screenPtr : (endInstruction s).screenPtr = s.screenPtr := rfl
@[simp] theorem endInstruction_screenEvents : (endInstruction s).screenEvents = s.screenEvents := rfl
@[simp] theorem endInstruction_outTrace : (endInstruction s).outTrace = s.outTrace := rfl
@[simp] theorem endInstruction_freeCount : (endInstruction s).freeCount = s.freeCount := rfl

/-! ### haltAtStep -/

@[simp] theorem haltAtStep_a (k : BitVec 3) : (haltAtStep k s).a = s.a := rfl
@[simp] theorem haltAtStep_b (k : BitVec 3) : (haltAtStep k s).b = s.b := rfl
@[simp] theorem haltAtStep_ir (k : BitVec 3) : (haltAtStep k s).ir = s.ir := rfl
@[simp] theorem haltAtStep_ir2 (k : BitVec 3) : (haltAtStep k s).ir2 = s.ir2 := rfl
@[simp] theorem haltAtStep_out (k : BitVec 3) : (haltAtStep k s).out = s.out := rfl
@[simp] theorem haltAtStep_pc (k : BitVec 3) : (haltAtStep k s).pc = s.pc := rfl
@[simp] theorem haltAtStep_cf (k : BitVec 3) : (haltAtStep k s).cf = s.cf := rfl
@[simp] theorem haltAtStep_zf (k : BitVec 3) : (haltAtStep k s).zf = s.zf := rfl
@[simp] theorem haltAtStep_sf (k : BitVec 3) : (haltAtStep k s).sf = s.sf := rfl
@[simp] theorem haltAtStep_mar (k : BitVec 3) : (haltAtStep k s).mar = s.mar := rfl
@[simp] theorem haltAtStep_sp (k : BitVec 3) : (haltAtStep k s).sp = s.sp := rfl
@[simp] theorem haltAtStep_stk (k : BitVec 3) : (haltAtStep k s).stk = s.stk := rfl
@[simp] theorem haltAtStep_microStep (k : BitVec 3) : (haltAtStep k s).microStep = k := rfl
@[simp] theorem haltAtStep_cw (k : BitVec 3) : (haltAtStep k s).cw = 0x004000 := rfl
@[simp] theorem haltAtStep_ram (k : BitVec 3) : (haltAtStep k s).ram = s.ram := rfl
@[simp] theorem haltAtStep_halted (k : BitVec 3) : (haltAtStep k s).halted = true := rfl
@[simp] theorem haltAtStep_hostStop (k : BitVec 3) : (haltAtStep k s).hostStop = s.hostStop := rfl
@[simp] theorem haltAtStep_screenPtr (k : BitVec 3) : (haltAtStep k s).screenPtr = s.screenPtr := rfl
@[simp] theorem haltAtStep_screenEvents (k : BitVec 3) : (haltAtStep k s).screenEvents = s.screenEvents := rfl
@[simp] theorem haltAtStep_outTrace (k : BitVec 3) : (haltAtStep k s).outTrace = s.outTrace := rfl
@[simp] theorem haltAtStep_freeCount (k : BitVec 3) : (haltAtStep k s).freeCount = s.freeCount := rfl

/-! ### setHostStop -/

@[simp] theorem setHostStop_a (line : Bool) : (setHostStop line s).a = s.a := rfl
@[simp] theorem setHostStop_b (line : Bool) : (setHostStop line s).b = s.b := rfl
@[simp] theorem setHostStop_ir (line : Bool) : (setHostStop line s).ir = s.ir := rfl
@[simp] theorem setHostStop_ir2 (line : Bool) : (setHostStop line s).ir2 = s.ir2 := rfl
@[simp] theorem setHostStop_out (line : Bool) : (setHostStop line s).out = s.out := rfl
@[simp] theorem setHostStop_pc (line : Bool) : (setHostStop line s).pc = s.pc := rfl
@[simp] theorem setHostStop_cf (line : Bool) : (setHostStop line s).cf = s.cf := rfl
@[simp] theorem setHostStop_zf (line : Bool) : (setHostStop line s).zf = s.zf := rfl
@[simp] theorem setHostStop_sf (line : Bool) : (setHostStop line s).sf = s.sf := rfl
@[simp] theorem setHostStop_mar (line : Bool) : (setHostStop line s).mar = s.mar := rfl
@[simp] theorem setHostStop_sp (line : Bool) : (setHostStop line s).sp = s.sp := rfl
@[simp] theorem setHostStop_stk (line : Bool) : (setHostStop line s).stk = s.stk := rfl
@[simp] theorem setHostStop_microStep (line : Bool) : (setHostStop line s).microStep = s.microStep := rfl
@[simp] theorem setHostStop_cw (line : Bool) : (setHostStop line s).cw = s.cw := rfl
@[simp] theorem setHostStop_ram (line : Bool) : (setHostStop line s).ram = s.ram := rfl
@[simp] theorem setHostStop_halted (line : Bool) : (setHostStop line s).halted = s.halted := rfl
@[simp] theorem setHostStop_hostStop (line : Bool) : (setHostStop line s).hostStop = line := rfl
@[simp] theorem setHostStop_screenPtr (line : Bool) : (setHostStop line s).screenPtr = s.screenPtr := rfl
@[simp] theorem setHostStop_screenEvents (line : Bool) : (setHostStop line s).screenEvents = s.screenEvents := rfl
@[simp] theorem setHostStop_outTrace (line : Bool) : (setHostStop line s).outTrace = s.outTrace := rfl
@[simp] theorem setHostStop_freeCount (line : Bool) : (setHostStop line s).freeCount = s.freeCount := rfl

end Sys2Proof.Machine
end

