-- ==== Sys2Proof/Laws/Tick.lean ====
section
/-! SUPPORT. What each control word of the reference ROM does to the state: one lemma per word (spec/42_microcode_rom.md R208),
so that a micro-program is run by rewriting, without unfolding the datapath. -/

namespace Sys2Proof.Machine

variable (s : State)

/-! ## A tick on a word -/

/-- R184: on a word that is admitted and has no HT, while the host does not stop the run, a tick is the control unit's step
and the datapath. -/
theorem tickWord_running {w : ControlWord} {s t : State} (ha : admitted w = true) (hh : asserts w .ht = false)
    (hs : s.hostStop = false) (hd : datapath w (controlStep w s) = some t) : tickWord w s = .next t := by
  simp [tickWord, ha, hh, hs, hd]

/-- A tick of the reference machine that has not halted is the word of its frame. -/
theorem tick_romRef (h : s.halted = false) :
    tick romRef s = match microWord s.microStep s.ir s.cf s.zf s.sf with
      | none => .refused (.reservedOpcode s.ir)
      | some w => tickWord w s := by
  cases hw : microWord s.microStep s.ir s.cf s.zf s.sf <;> simp [tick, h, romIndex, hw]

/-- A run of ticks is its first tick, then the rest of the run. -/
theorem ticks_succ (rom : Rom) (n : Nat) :
    ticks rom (n + 1) s = match tick rom s with
      | .next t => ticks rom n t
      | .fault r => .fault r
      | .refused r => .refused r := rfl

@[simp] theorem ticks_zero (rom : Rom) : ticks rom 0 s = .next s := rfl

/-! ## A tick on each word of the reference ROM, while the host does not stop the run -/

/-- The state after step 1 of a tick on a non-zero word: what the word's actions then apply to (R161). -/
abbrev withWord (w : ControlWord) (s : State) : State := { s with cw := w, microStep := s.microStep + 1 }

/-- R162: the terminator. -/
theorem tickWord_zero (h : s.hostStop = false) : tickWord 0x000000#24 s = .next (endInstruction s) := by
  simp [tickWord, controlStep, h, show asserts 0#24 .ht = false by decide, show ∀ t, datapath 0#24 t = some t from fun _ => rfl,
    endInstruction]

/-- R164: HT, whether or not the host stops the run. -/
theorem tickWord_ht : tickWord 0x004000#24 s = .next { withWord 0x004000 s with halted := true } := by
  simp [tickWord, controlStep, show asserts 0x004000#24 .ht = true by decide, show admitted 0x004000#24 = true by decide]

theorem tickWord_io_mi (h : s.hostStop = false) :
    tickWord 0x000011#24 s = .next { withWord 0x000011 s with mar := busOperand s } :=
  tickWord_running (by decide) (by decide) h rfl
theorem tickWord_co_mi (h : s.hostStop = false) :
    tickWord 0x000021#24 s = .next { withWord 0x000021 s with mar := s.pc } :=
  tickWord_running (by decide) (by decide) h rfl
theorem tickWord_io_jp (h : s.hostStop = false) :
    tickWord 0x000050#24 s = .next { withWord 0x000050 s with pc := busOperand s } :=
  tickWord_running (by decide) (by decide) h rfl
theorem tickWord_ce (h : s.hostStop = false) :
    tickWord 0x000080#24 s = .next { withWord 0x000080 s with pc := s.pc + 1 } :=
  tickWord_running (by decide) (by decide) h rfl
theorem tickWord_ro_ii_ce (h : s.hostStop = false) :
    tickWord 0x00008C#24 s = .next { withWord 0x00008C s with ir := readByte s s.mar, pc := s.pc + 1 } :=
  tickWord_running (by decide) (by decide) h rfl
theorem tickWord_ro_ai (h : s.hostStop = false) :
    tickWord 0x000104#24 s = .next { withWord 0x000104 s with a := readByte s s.mar } :=
  tickWord_running (by decide) (by decide) h rfl
theorem tickWord_ro_ai_ce (h : s.hostStop = false) :
    tickWord 0x000184#24 s = .next { withWord 0x000184 s with a := readByte s s.mar, pc := s.pc + 1 } :=
  tickWord_running (by decide) (by decide) h rfl
theorem tickWord_ao_ri (h : s.hostStop = false) :
    tickWord 0x000202#24 s = .next (writeByte s.mar s.a (withWord 0x000202 s)) :=
  tickWord_running (by decide) (by decide) h rfl
theorem tickWord_ai_add (h : s.hostStop = false) :
    tickWord 0x000500#24 s = .next (aluToA .add (withWord 0x000500 s)) :=
  tickWord_running (by decide) (by decide) h rfl
theorem tickWord_ai_sub (h : s.hostStop = false) :
    tickWord 0x000900#24 s = .next (aluToA .sub (withWord 0x000900 s)) :=
  tickWord_running (by decide) (by decide) h rfl
theorem tickWord_ai_inc (h : s.hostStop = false) :
    tickWord 0x000D00#24 s = .next (aluToA .inc (withWord 0x000D00 s)) :=
  tickWord_running (by decide) (by decide) h rfl
theorem tickWord_ai_and (h : s.hostStop = false) :
    tickWord 0x001500#24 s = .next (aluToA .and (withWord 0x001500 s)) :=
  tickWord_running (by decide) (by decide) h rfl
theorem tickWord_ai_or (h : s.hostStop = false) :
    tickWord 0x001900#24 s = .next (aluToA .or (withWord 0x001900 s)) :=
  tickWord_running (by decide) (by decide) h rfl
theorem tickWord_ai_not (h : s.hostStop = false) :
    tickWord 0x001D00#24 s = .next (aluToA .not (withWord 0x001D00 s)) :=
  tickWord_running (by decide) (by decide) h rfl
theorem tickWord_ai_rsh (h : s.hostStop = false) :
    tickWord 0x002100#24 s = .next (aluToA .rsh (withWord 0x002100 s)) :=
  tickWord_running (by decide) (by decide) h rfl
theorem tickWord_ai_lsh (h : s.hostStop = false) :
    tickWord 0x002500#24 s = .next (aluToA .lsh (withWord 0x002500 s)) :=
  tickWord_running (by decide) (by decide) h rfl
theorem tickWord_ai_mull (h : s.hostStop = false) :
    tickWord 0x002900#24 s = .next (aluToA .mull (withWord 0x002900 s)) :=
  tickWord_running (by decide) (by decide) h rfl
theorem tickWord_ai_mulh (h : s.hostStop = false) :
    tickWord 0x002D00#24 s = .next (aluToA .mulh (withWord 0x002D00 s)) :=
  tickWord_running (by decide) (by decide) h rfl
theorem tickWord_ro_bi (h : s.hostStop = false) :
    tickWord 0x008004#24 s = .next { withWord 0x008004 s with b := readByte s s.mar } :=
  tickWord_running (by decide) (by decide) h rfl
theorem tickWord_ro_bi_ce (h : s.hostStop = false) :
    tickWord 0x008084#24 s = .next { withWord 0x008084 s with b := readByte s s.mar, pc := s.pc + 1 } :=
  tickWord_running (by decide) (by decide) h rfl
theorem tickWord_ao_bi (h : s.hostStop = false) :
    tickWord 0x008200#24 s = .next { withWord 0x008200 s with b := s.a } :=
  tickWord_running (by decide) (by decide) h rfl
theorem tickWord_bo_ai (h : s.hostStop = false) :
    tickWord 0x010100#24 s = .next { withWord 0x010100 s with a := s.b } :=
  tickWord_running (by decide) (by decide) h rfl
theorem tickWord_ro_oi_ce (h : s.hostStop = false) :
    tickWord 0x020084#24 s = .next { writeOut (readByte s s.mar) (withWord 0x020084 s) with pc := s.pc + 1 } :=
  tickWord_running (by decide) (by decide) h rfl
theorem tickWord_ao_oi (h : s.hostStop = false) :
    tickWord 0x020200#24 s = .next (writeOut s.a (withWord 0x020200 s)) :=
  tickWord_running (by decide) (by decide) h rfl
theorem tickWord_ro_xi_ce (h : s.hostStop = false) :
    tickWord 0x040084#24 s = .next { withWord 0x040084 s with ir2 := readByte s s.mar, pc := s.pc + 1 } :=
  tickWord_running (by decide) (by decide) h rfl
theorem tickWord_ro_si_ce (h : s.hostStop = false) :
    tickWord 0x080084#24 s = .next { pushByte (readByte s s.mar) (withWord 0x080084 s) with pc := s.pc + 1 } :=
  tickWord_running (by decide) (by decide) h rfl
theorem tickWord_ao_si (h : s.hostStop = false) :
    tickWord 0x080200#24 s = .next (pushByte s.a (withWord 0x080200 s)) :=
  tickWord_running (by decide) (by decide) h rfl
theorem tickWord_so_ai (h : s.hostStop = false) :
    tickWord 0x100100#24 s = .next { dropCell (withWord 0x100100 s) with a := (topCell s).extractLsb' 0 8 } :=
  tickWord_running (by decide) (by decide) h rfl
theorem tickWord_co_si_sa (h : s.hostStop = false) :
    tickWord 0x280020#24 s = .next (pushWord s.pc (withWord 0x280020 s)) :=
  tickWord_running (by decide) (by decide) h rfl
theorem tickWord_so_sa_jp (h : s.hostStop = false) :
    tickWord 0x300040#24 s = .next { dropCell (withWord 0x300040 s) with pc := topCell s } :=
  tickWord_running (by decide) (by decide) h rfl
theorem tickWord_rf (h : s.hostStop = false) :
    tickWord 0x400000#24 s = .next (emitRefresh (withWord 0x400000 s)) :=
  tickWord_running (by decide) (by decide) h rfl
theorem tickWord_ro_pi_ce (h : s.hostStop = false) :
    tickWord 0x800084#24 s = .next { emitPointer (readByte s s.mar) (withWord 0x800084 s) with pc := s.pc + 1 } :=
  tickWord_running (by decide) (by decide) h rfl

end Sys2Proof.Machine
end

