-- ==== Sys2Proof/Laws/HostSide.lean ====
section
/-! SUPPORT. The host's loop of ticks: its first tick, and that a run that has ended is the same under every larger cap
(spec/60_exceptions.md R346, R347). -/

namespace Sys2Proof.Machine

variable (rom : Rom) (s : State)

@[simp] theorem hostRun_zero : hostRun rom 0 s = .next s := rfl

@[simp] theorem hostLoop_some (n : Nat) (o : Host.Outcome State Fault Refusal) :
    HostLoop rom (some n) s o ↔ hostRun rom n s = o := Iff.rfl

theorem hostLoop_none (o : Host.Outcome State Fault Refusal) :
    HostLoop rom none s o ↔ endsRun o = true ∧ ∃ n, hostRun rom (n + 1) s = o := Iff.rfl

/-- The loop is one tick, then the rest of the loop unless that tick ended the run. -/
theorem hostRun_succ (n : Nat) :
    hostRun rom (n + 1) s = match tick rom s with
      | .next t => if t.halted then .next t else hostRun rom n t
      | .fault r => .fault r
      | .refused r => .refused r := rfl

/-- A loop that has ended its run gives the same under any larger cap. -/
theorem hostRun_ended (n k : Nat) (h : endsRun (hostRun rom (n + 1) s) = true) :
    hostRun rom (n + k + 1) s = hostRun rom (n + 1) s := by
  induction n generalizing s with
  | zero =>
    rw [hostRun_succ] at h ⊢
    rw [hostRun_succ]
    cases ht : tick rom s with
    | next t => cases hh : t.halted <;> simp_all [endsRun]
    | fault r => rfl
    | refused r => rfl
  | succ n ih =>
    rw [hostRun_succ] at h
    rw [show n + 1 + k + 1 = (n + k + 1) + 1 by omega, hostRun_succ, hostRun_succ]
    cases ht : tick rom s with
    | next t =>
      cases hh : t.halted
      · simpa [hh] using ih t (by simpa [ht, hh] using h)
      · simp [hh]
    | fault r => rfl
    | refused r => rfl

end Sys2Proof.Machine
end

