-- ==== Sys2Proof/Laws/Memory.lean ====
section
/-! SUPPORT. The laws of RAM: read after write, and that every memory operation keeps the canonical form
(spec/20_memory.md R60, R62). -/

namespace Sys2Proof.Machine

namespace Memory

/-! ## Reading -/

@[simp] theorem read_nil (x : Nat) : read [] x = 0 := rfl

theorem read_cons (k : Nat) (v : Byte) (m : Memory) (x : Nat) :
    read ((k, v) :: m) x = if x = k then v else read m x := rfl

theorem read_erase (m : Memory) (x y : Nat) : read (erase m x) y = if y = x then 0 else read m y := by
  induction m with
  | nil => simp [erase]
  | cons c rest ih =>
    obtain ⟨k, v⟩ := c
    simp only [erase] at ih
    by_cases hk : k = x
    · subst hk
      simp only [erase, List.filter_cons, bne_self_eq_false, Bool.false_eq_true, if_false, ih, read_cons]
      split <;> simp_all
    · have hne : (k != x) = true := by simpa using hk
      simp only [erase, List.filter_cons, hne, if_true, read_cons, ih]
      split <;> simp_all

theorem read_insert (m : Memory) (x y : Nat) (v : Byte) :
    read (insert m x v) y = if y = x then v else read m y := by
  induction m with
  | nil => simp [insert, read_cons]
  | cons c rest ih =>
    obtain ⟨k, w⟩ := c
    simp only [insert]
    split
    · rw [read_cons]
    · split
      · subst_vars
        rw [read_cons, read_cons]
        split <;> simp_all
      · rw [read_cons, read_cons, ih]
        by_cases hy : y = k
        · subst hy
          simp [Ne.symm ‹¬x = y›]
        · simp [hy]

/-- A read after a write: the byte written at that address, the byte before at every other. -/
theorem read_write (m : Memory) (x y : Nat) (v : Byte) :
    read (write m x v) y = if y = x then v else read m y := by
  unfold write
  split
  · subst_vars; exact read_erase m x y
  · exact read_insert m x y v

/-! ## The canonical form -/

theorem wf_cons (k : Nat) (v : Byte) (m : Memory) :
    wf ((k, v) :: m) = true ↔ k < 4096 ∧ v ≠ 0 ∧ above k m = true ∧ wf m = true := by
  simp [wf, and_assoc]

theorem above_iff (x : Nat) (m : Memory) : above x m = true ↔ ∀ c ∈ m, x < c.1 := by
  simp [above]

theorem above_erase {k : Nat} {m : Memory} (x : Nat) (h : above k m = true) : above k (erase m x) = true := by
  rw [above_iff] at h ⊢
  intro c hc
  exact h c (List.mem_filter.mp hc).1

theorem wf_erase {m : Memory} (x : Nat) (h : wf m = true) : wf (erase m x) = true := by
  induction m with
  | nil => rfl
  | cons c rest ih =>
    obtain ⟨k, v⟩ := c
    obtain ⟨hk, hv, ha, hw⟩ := (wf_cons k v rest).mp h
    by_cases hkx : k = x
    · simpa [erase, List.filter_cons, hkx] using ih hw
    · have : erase ((k, v) :: rest) x = (k, v) :: erase rest x := by simp [erase, hkx]
      rw [this, wf_cons]
      exact ⟨hk, hv, above_erase x ha, ih hw⟩

theorem above_insert {k : Nat} {m : Memory} {x : Nat} (v : Byte) (hkx : k < x) (h : above k m = true) :
    above k (insert m x v) = true := by
  induction m with
  | nil => simpa [insert, above] using hkx
  | cons c rest ih =>
    obtain ⟨l, w⟩ := c
    have hl : k < l := (above_iff k _).mp h (l, w) List.mem_cons_self
    have hr : above k rest = true := by
      rw [above_iff] at h ⊢
      exact fun d hd => h d (List.mem_cons_of_mem _ hd)
    simp only [insert]
    split
    · simpa [above, hkx, hl] using (above_iff k rest).mp hr
    · split
      · simpa [above, hkx] using (above_iff k rest).mp hr
      · simpa [above, hl] using (above_iff k _).mp (ih hr)

theorem above_of_lt {k x : Nat} {m : Memory} (hxk : x < k) (h : above k m = true) : above x m = true := by
  rw [above_iff] at h ⊢
  exact fun c hc => Nat.lt_trans hxk (h c hc)

theorem wf_insert {m : Memory} {x : Nat} {v : Byte} (hx : x < 4096) (hv : v ≠ 0) (h : wf m = true) :
    wf (insert m x v) = true := by
  induction m with
  | nil => simpa [insert, wf, above] using ⟨hx, hv⟩
  | cons c rest ih =>
    obtain ⟨k, w⟩ := c
    obtain ⟨hk, hw, ha, hr⟩ := (wf_cons k w rest).mp h
    simp only [insert]
    split
    · rename_i hlt
      rw [wf_cons]
      refine ⟨hx, hv, ?_, h⟩
      have := (above_iff x rest).mp (above_of_lt hlt ha)
      simpa [above, hlt] using this
    · split
      · subst_vars
        exact (wf_cons _ v rest).mpr ⟨hx, hv, ha, hr⟩
      · rw [wf_cons]
        exact ⟨hk, hw, above_insert v (by omega) ha, ih hr⟩

/-- Writing a byte below 4096 keeps the canonical form. -/
theorem wf_write {m : Memory} {x : Nat} (v : Byte) (hx : x < 4096) (h : wf m = true) : wf (write m x v) = true := by
  unfold write
  split
  · exact wf_erase x h
  · exact wf_insert hx ‹_› h

/-! ## The host's image -/

theorem above_ofBytes (bytes : List Byte) (x y : Nat) (h : x < y) : above x (ofBytes y bytes) = true := by
  induction bytes generalizing y with
  | nil => rfl
  | cons v rest ih =>
    have hr := (above_iff x _).mp (ih (y + 1) (by omega))
    simp only [ofBytes]
    split
    · split
      · exact (above_iff x _).mpr hr
      · simpa [above, h] using hr
    · rfl

/-- An image is in canonical form. -/
theorem wf_ofBytes (bytes : List Byte) (x : Nat) : wf (ofBytes x bytes) = true := by
  induction bytes generalizing x with
  | nil => rfl
  | cons v rest ih =>
    simp only [ofBytes]
    split
    · split
      · exact ih (x + 1)
      · rw [wf_cons]
        exact ⟨‹_›, ‹_›, above_ofBytes rest x (x + 1) (by omega), ih (x + 1)⟩
    · rfl

end Memory

/-! ## Through the state -/

theorem writeByte_wf {s : State} (addr : Word) (v : Byte) (h : Memory.wf s.ram = true) :
    Memory.wf (writeByte addr v s).ram = true := by
  simpa using Memory.wf_write v addr.isLt h

/-- A read depends on RAM alone. -/
theorem readByte_congr {s t : State} (h : s.ram = t.ram) (x : Word) : readByte s x = readByte t x := by
  simp [readByte, h]

theorem reset_memory_wf : Memory.wf State.reset.ram = true := rfl

end Sys2Proof.Machine
end

