-- ==== Sys2Proof/Laws/Ops.lean ====
section
/-! SUPPORT. What each operation shared by several meanings answers, as one record, and how pushes and pops meet
(spec/41_control_and_tick.md R174, R175; spec/42_microcode_rom.md R206, R212). -/

namespace Sys2Proof.Machine

variable (s : State)

/-! ## The call stack -/

/-- An 8-bit pop does not see the nibble above the byte an 8-bit push wrote (R175). -/
@[simp] theorem extractLsb'_cell (upper : Nibble) (v : Byte) : (upper ++ v : Word).extractLsb' 0 8 = v := by
  ext k hk
  simp only [BitVec.getElem_extractLsb', BitVec.getLsbD_append]
  simp [hk]

/-- A pop reads the cell the last push wrote. -/
@[simp] theorem topCell_pushWord (v : Word) : topCell (pushWord v s) = v := by
  simp [topCell, pushWord]

/-- A pop after an 8-bit push reads the byte under a free nibble. -/
@[simp] theorem topCell_pushByte (v : Byte) : topCell (pushByte v s) = Config.freeNibble s.freeCount ++ v := by
  simp [topCell, pushByte]

/-- A push then a pop leave SP, and the cell as the push wrote it. -/
@[simp] theorem dropCell_pushWord (v : Word) :
    dropCell (pushWord v s) = { s with stk := s.stk.set s.sp.toNat v s.sp.isLt } := by
  simp [dropCell, pushWord]

/-- An 8-bit push then a pop leave SP, and the cell as the push wrote it; the free nibble stays drawn. -/
@[simp] theorem dropCell_pushByte (v : Byte) :
    dropCell (pushByte v s) = { s with
      stk := s.stk.set s.sp.toNat (Config.freeNibble s.freeCount ++ v) s.sp.isLt, freeCount := s.freeCount + 1 } := by
  simp [dropCell, pushByte]

/-! ## What the shared operations answer -/

theorem memoryToAlu_eq (op : AluOp) (i : Instr) (addr : Word) :
    memoryToAlu op i addr s = .next { s with
      ir := firstByte i, ir2 := addr.extractLsb' 0 8, pc := s.pc + 2, mar := addr, b := readByte s addr,
      a := aluResult op s.a (readByte s addr), cf := (aluCarry op s.a (readByte s addr)).getD s.cf,
      zf := aluResult op s.a (readByte s addr) == 0, sf := (aluResult op s.a (readByte s addr)).getLsbD 7,
      microStep := 0, cw := 0 } := rfl

theorem immediateToAlu_eq (op : AluOp) (i : Instr) (imm : Byte) :
    immediateToAlu op i imm s = .next { s with
      ir := firstByte i, pc := s.pc + 2, mar := s.pc + 1, b := imm, a := aluResult op s.a imm,
      cf := (aluCarry op s.a imm).getD s.cf, zf := aluResult op s.a imm == 0, sf := (aluResult op s.a imm).getLsbD 7,
      microStep := 0, cw := 0 } := rfl

theorem registerAlu_eq (op : AluOp) (i : Instr) :
    registerAlu op i s = .next { s with
      ir := firstByte i, pc := s.pc + 1, mar := s.pc, a := aluResult op s.a s.b,
      cf := (aluCarry op s.a s.b).getD s.cf, zf := aluResult op s.a s.b == 0, sf := (aluResult op s.a s.b).getLsbD 7,
      microStep := 0, cw := 0 } := rfl

theorem branchOn_eq (flag : Bool) (i : Instr) (target : Word) :
    branchOn flag i target s = .next (if flag then
        { s with ir := firstByte i, ir2 := target.extractLsb' 0 8, pc := target, mar := s.pc + 1, microStep := 0, cw := 0 }
      else { s with ir := firstByte i, pc := s.pc + 2, mar := s.pc, microStep := 0, cw := 0 }) := by
  cases flag <;> rfl

end Sys2Proof.Machine
end

