-- ==== Sys2Proof/Laws/PerInstr.lean ====
section
/-! SUPPORT. Per instruction, that every term of Instr is well formed: its fields name an instruction, its first byte is not
reserved, and it has as many bytes as its first byte says (spec/30_encoding.md R90, R94, R100). -/

namespace Sys2Proof.Laws.Encoding

/-- The instruction is well formed, whatever its operand. -/
def Statement (i : Instr) : Prop := i.wellFormed = true

/-- Whatever the address nibble, the first byte of a class 0x1..0xD is not reserved and begins two bytes (R90, R94, R100). -/
theorem addressed_first_byte (cls ah : Nibble) (h : 0x1#4 ≤ cls ∧ cls ≤ 0xD#4) :
    reservedByte (cls ++ ah) = false ∧ lengthOfByte (cls ++ ah) = 2 := by
  revert cls ah
  decide +kernel

/-- An instruction of an addressed class is well formed. -/
theorem of_addressed {i : Instr} {cls : Nibble} {addr : Word} (hf : fieldsOf i = .addressed cls addr)
    (hc : 0x1#4 ≤ cls ∧ cls ≤ 0xD#4) : Statement i := by
  have h := addressed_first_byte cls (addr.extractLsb' 8 4) hc
  simp [Statement, Instr.wellFormed, encode, firstByte, hf, joinFirst, joinRest, Fields.wellFormed, h, hc]

/-- An instruction whose first byte has no field for an operand is well formed where that byte is. -/
theorem of_opcode_byte {i : Instr} {b0 : Byte} {n : Nat} (hf : (fieldsOf i).wellFormed = true) (hb : firstByte i = b0)
    (hn : (encode i).length = n) (h : reservedByte b0 = false ∧ lengthOfByte b0 = n) : Statement i := by
  simp [Statement, Instr.wellFormed, hf, hb, hn, h]

theorem lda (addr : Word) : Statement (.lda addr) := of_addressed (cls := 0x1) rfl (by decide)
theorem add (addr : Word) : Statement (.add addr) := of_addressed (cls := 0x2) rfl (by decide)
theorem sub (addr : Word) : Statement (.sub addr) := of_addressed (cls := 0x3) rfl (by decide)
theorem sta (addr : Word) : Statement (.sta addr) := of_addressed (cls := 0x4) rfl (by decide)
theorem jmp (target : Word) : Statement (.jmp target) := of_addressed (cls := 0x5) rfl (by decide)
theorem jmpc (target : Word) : Statement (.jmpc target) := of_addressed (cls := 0x6) rfl (by decide)
theorem jmpz (target : Word) : Statement (.jmpz target) := of_addressed (cls := 0x7) rfl (by decide)
theorem jmpn (target : Word) : Statement (.jmpn target) := of_addressed (cls := 0x8) rfl (by decide)
theorem jsr (target : Word) : Statement (.jsr target) := of_addressed (cls := 0x9) rfl (by decide)
theorem and (addr : Word) : Statement (.and addr) := of_addressed (cls := 0xA) rfl (by decide)
theorem or (addr : Word) : Statement (.or addr) := of_addressed (cls := 0xB) rfl (by decide)
theorem mull (addr : Word) : Statement (.mull addr) := of_addressed (cls := 0xC) rfl (by decide)
theorem mulh (addr : Word) : Statement (.mulh addr) := of_addressed (cls := 0xD) rfl (by decide)
theorem ldi (imm : Byte) : Statement (.ldi imm) := of_opcode_byte (b0 := 0xE0) (n := 2) rfl rfl rfl (by decide)
theorem ldib (imm : Byte) : Statement (.ldib imm) := of_opcode_byte (b0 := 0xE1) (n := 2) rfl rfl rfl (by decide)
theorem addImm (imm : Byte) : Statement (.addImm imm) := of_opcode_byte (b0 := 0xE2) (n := 2) rfl rfl rfl (by decide)
theorem subImm (imm : Byte) : Statement (.subImm imm) := of_opcode_byte (b0 := 0xE3) (n := 2) rfl rfl rfl (by decide)
theorem pushImm (imm : Byte) : Statement (.pushImm imm) := of_opcode_byte (b0 := 0xE4) (n := 2) rfl rfl rfl (by decide)
theorem haltImm (imm : Byte) : Statement (.haltImm imm) := of_opcode_byte (b0 := 0xE5) (n := 2) rfl rfl rfl (by decide)
theorem setp (imm : Byte) : Statement (.setp imm) := of_opcode_byte (b0 := 0xE6) (n := 2) rfl rfl rfl (by decide)
theorem out : Statement .out := of_opcode_byte (b0 := 0xF0) rfl rfl rfl (by decide)
theorem inc : Statement .inc := of_opcode_byte (b0 := 0xF1) rfl rfl rfl (by decide)
theorem not : Statement .not := of_opcode_byte (b0 := 0xF2) rfl rfl rfl (by decide)
theorem rsh : Statement .rsh := of_opcode_byte (b0 := 0xF3) rfl rfl rfl (by decide)
theorem lsh : Statement .lsh := of_opcode_byte (b0 := 0xF4) rfl rfl rfl (by decide)
theorem take : Statement .take := of_opcode_byte (b0 := 0xF5) rfl rfl rfl (by decide)
theorem move : Statement .move := of_opcode_byte (b0 := 0xF6) rfl rfl rfl (by decide)
theorem pusha : Statement .pusha := of_opcode_byte (b0 := 0xF7) rfl rfl rfl (by decide)
theorem popa : Statement .popa := of_opcode_byte (b0 := 0xF8) rfl rfl rfl (by decide)
theorem ret : Statement .ret := of_opcode_byte (b0 := 0xF9) rfl rfl rfl (by decide)
theorem halta : Statement .halta := of_opcode_byte (b0 := 0xFA) rfl rfl rfl (by decide)
theorem refresh : Statement .refresh := of_opcode_byte (b0 := 0xFB) rfl rfl rfl (by decide)
theorem halt : Statement .halt := of_opcode_byte (b0 := 0xFC) rfl rfl rfl (by decide)
theorem multl : Statement .multl := of_opcode_byte (b0 := 0xFD) rfl rfl rfl (by decide)

end Sys2Proof.Laws.Encoding
end

