-- ==== Sys2Proof/Tests/Slice0.lean ====
section
/-! SUPPORT. The model's own tests: the checks of WellFormed on ill-formed terms, words written out from the encodings of
spec/30_encoding.md and spec/95_test_vectors.md, the vectors of spec/95_test_vectors.md at one step each, and for every
obligation with hypotheses a witness that meets them. -/

open Sys2Proof Sys2Proof.Machine

namespace Sys2Proof.Tests

-- one theorem after the other: elaborated in parallel, each kernel evaluation holds a thread that waits for all before it
set_option Elab.async false

/-! ## Helpers -/

/-- Bytes put into RAM from an address on. -/
def putBytes (p : Word) : List Byte → State → State
  | [], s => s
  | v :: rest, s => putBytes (p + 1) rest (writeByte p v s)

/-- The machine after reset with bytes at an address and PC there. -/
def ready (p : Word) (bytes : List Byte) : State := putBytes p bytes { State.reset with pc := p }

/-- An outcome is a next state with a property. -/
def nextWith (o : Host.Outcome State Fault Refusal) (f : State → Bool) : Bool :=
  match o with
  | .next t => f t
  | .fault _ => false
  | .refused _ => false

/-- An outcome is a refusal for a reserved first byte. -/
def refusesByte (o : Host.Outcome State Fault Refusal) (b0 : Byte) : Bool :=
  match o with
  | .refused (.reservedOpcode v) => v == b0
  | .refused _ => false
  | .next _ => false
  | .fault _ => false

/-- CF, ZF, SF. -/
def flags (s : State) : Bool × Bool × Bool := (s.cf, s.zf, s.sf)

/-! ## WellFormed refuses ill-formed terms -/

theorem test_fields_ill_formed :
    Fields.wellFormed (.addressed 0x0 0xABC) = false ∧ Fields.wellFormed (.addressed 0xE 0) = false
    ∧ Fields.wellFormed (.immediate 0x7 5) = false ∧ Fields.wellFormed (.nullary 0xE) = false := by decide

theorem test_fields_well_formed :
    Fields.wellFormed (.addressed 0x1 0) = true ∧ Fields.wellFormed (.addressed 0xD 0xFFF) = true
    ∧ Fields.wellFormed (.immediate 0x6 5) = true ∧ Fields.wellFormed (.nullary 0xD) = true := by decide

theorem test_reserved_bytes :
    ([0x00, 0x0F, 0xE7, 0xEF, 0xFE, 0xFF] : List Byte).all reservedByte = true
    ∧ ([0x10, 0xDF, 0xE0, 0xE6, 0xF0, 0xFD] : List Byte).any reservedByte = false := by decide

/-- R153 condition 1: CE with JP, the address bus driven by CO. -/
theorem test_word_ce_with_jp : noOpposedStrobes 0x0000E0 = false ∧ admitted 0x0000E0 = false := by decide

/-- R153 condition 2: A and B both drive the data bus. -/
theorem test_word_two_data_drivers : oneDataDriver 0x010300 = false ∧ admitted 0x010300 = false := by decide

/-- R153 condition 3: CO and IO both drive the address bus. -/
theorem test_word_two_address_drivers : oneAddressDriver 0x000031 = false ∧ admitted 0x000031 = false := by decide

/-- R153 condition 4: AI, MI, JP, SI, and SI with SA, each with no driver; a pop that feeds RI comes too late. -/
theorem test_word_undriven_readers :
    ([0x000100, 0x000001, 0x000040, 0x080000, 0x280000, 0x100002] : List ControlWord).all
      (fun w => !readersDriven w && !admitted w) = true := by decide

/-- R153 condition 5: a push with a pop. -/
theorem test_word_push_with_pop : noPushWithPop 0x380020 = false ∧ admitted 0x380020 = false := by decide

/-- R153 condition 6: MAR loaded in the tick that reads RAM. -/
theorem test_word_latch_with_access : noLatchWithAccess 0x000125 = false ∧ admitted 0x000125 = false := by decide

/-- R153 condition 7: the ALU code 1101. -/
theorem test_word_reserved_alu_code : aluCodeDefined 0x003500 = false ∧ admitted 0x003500 = false := by decide

/-- R153 condition 8: HT with CE. -/
theorem test_word_halt_not_alone : haltAlone 0x004080 = false ∧ admitted 0x004080 = false := by decide

/-- R204 (a): a ROM whose first entries are not the fetch pair is not well formed. -/
theorem test_rom_ill_formed : ¬ Rom.WellFormed (fun _ => some 0x000021) := fun h =>
  absurd (h.1 0 false false false).2 (by decide)

/-! ## Decoding: words written out bit by bit (spec/30_encoding.md R91 to R93, R97 to R99) -/

theorem test_decode_addressed_bits :
    decode [0b00011010, 0b10111100] = .ok (.lda 0xABC, []) ∧ decode [0b00101000, 0b00000000] = .ok (.add 0x800, [])
    ∧ decode [0b00111111, 0b11111111] = .ok (.sub 0xFFF, []) ∧ decode [0b01000100, 0b11111111] = .ok (.sta 0x4FF, [])
    ∧ decode [0b01010001, 0b00100011] = .ok (.jmp 0x123, []) ∧ decode [0b01100000, 0b00000111] = .ok (.jmpc 7, [])
    ∧ decode [0b01111111, 0b00000000] = .ok (.jmpz 0xF00, []) ∧ decode [0b10000000, 0b00010010] = .ok (.jmpn 0x012, []) := by
  decide

theorem test_decode_addressed_bits_2 :
    decode [0b10011111, 0b11111100] = .ok (.jsr 0xFFC, []) ∧ decode [0b10101000, 0b00000001] = .ok (.and 0x801, [])
    ∧ decode [0b10111000, 0b00000010] = .ok (.or 0x802, []) ∧ decode [0b11001000, 0b00000000] = .ok (.mull 0x800, [])
    ∧ decode [0b11011000, 0b00000000] = .ok (.mulh 0x800, []) := by decide

theorem test_decode_immediate_bits :
    decode [0b11100000, 0b11111111] = .ok (.ldi 255, []) ∧ decode [0b11100001, 0b00010001] = .ok (.ldib 17, [])
    ∧ decode [0b11100010, 0b00000101] = .ok (.addImm 5, []) ∧ decode [0b11100011, 0b00000000] = .ok (.subImm 0, [])
    ∧ decode [0b11100100, 0b00110011] = .ok (.pushImm 0x33, []) ∧ decode [0b11100101, 0b00000111] = .ok (.haltImm 7, [])
    ∧ decode [0b11100110, 0b00100000] = .ok (.setp 32, []) := by decide

theorem test_decode_nullary_bits :
    ([0b11110000, 0b11110001, 0b11110010, 0b11110011, 0b11110100, 0b11110101, 0b11110110, 0b11110111, 0b11111000, 0b11111001,
      0b11111010, 0b11111011, 0b11111100, 0b11111101] : List Byte).map (fun b0 => decodePair b0 0xAA)
    = [some .out, some .inc, some .not, some .rsh, some .lsh, some .take, some .move, some .pusha, some .popa, some .ret,
      some .halta, some .refresh, some .halt, some .multl] := by decide

theorem test_decode_refuses :
    decode [] = .error .truncated ∧ decode [0x1A] = .error .truncated ∧ decode [0x0F, 0x00] = .error (.reserved 0x0F)
    ∧ decode [0xE7, 0x00] = .error (.reserved 0xE7) ∧ decode [0xFE] = .error (.reserved 0xFE) := by decide

theorem test_decode_leaves_the_rest : decode [0xF9, 0x1A, 0xBC] = .ok (.ret, [0x1A, 0xBC]) := by decide

theorem test_encode_bytes :
    encode (.lda 0xABC) = [0x1A, 0xBC] ∧ encode (.setp 32) = [0xE6, 0x20] ∧ encode .multl = [0xFD] := by decide

/-- The host's numbering (log entry 8): byte 0 of a two-byte row in bits 15..8. -/
theorem test_table_words :
    decodeTableWord 16 0x1ABC = some (.lda 0xABC) ∧ decodeTableWord 16 0xE6FF = some (.setp 0xFF)
    ∧ decodeTableWord 8 0xFC = some .halt ∧ decodeTableWord 16 0x0000 = none := by decide

/-- The word placed where the machine after reset fetches is the first instruction its step runs (log entry 9). -/
theorem test_with_fetch_word :
    nextWith (step (State.reset.withFetchWord 16 0xE07F)) (fun t => t.a == 0x7F && t.pc == 2) = true
    ∧ nextWith (step (State.reset.withFetchWord 8 0xF2)) (fun t => t.a == 0xFF && t.pc == 1) = true := by decide +kernel

/-! ## One step: the vectors of spec/95_test_vectors.md section 6 (both levels agree by an obligation) -/

/-- T20. -/
theorem test_lda :
    nextWith (step { putBytes 0xABC [0x80] (ready 0x010 [0x1A, 0xBC]) with cf := true, zf := true })
      (fun t => t.a == 0x80 && t.pc == 0x012 && t.mar == 0xABC && t.ir == 0x1A && t.ir2 == 0xBC && t.cf == true && t.zf == true && t.sf == false) = true := by decide +kernel

/-- T22. -/
theorem test_lda_straddles_the_top :
    nextWith (step (putBytes 0x800 [0x5A] (ready 0xFFF [0x18, 0x00])))
      (fun t => t.a == 0x5A && t.pc == 0x001 && t.mar == 0x800) = true := by decide +kernel

/-- T23. -/
theorem test_sta :
    nextWith (step { ready 0x000 [0x4F, 0xFE] with a := 0x2A })
      (fun t => t.a == 0x2A && t.pc == 0x002 && t.mar == 0xFFE && readByte t 0xFFE == 0x2A) = true := by decide +kernel

/-- T24. -/
theorem test_sta_over_its_operand :
    nextWith (step { ready 0x030 [0x40, 0x31] with a := 0x77 })
      (fun t => t.pc == 0x032 && t.mar == 0x031 && t.ir2 == 0x31 && readByte t 0x031 == 0x77) = true := by decide +kernel

/-- T25. -/
theorem test_add_carries :
    nextWith (step { putBytes 0x800 [0x01] (ready 0x000 [0x28, 0x00]) with a := 0xFF, b := 0x99, sf := true })
      (fun t => t.a == 0x00 && t.b == 0x01 && t.pc == 0x002 && t.cf == true && t.zf == true && t.sf == false) = true := by decide +kernel

/-- T27. -/
theorem test_add_signs :
    nextWith (step { putBytes 0x800 [0x01] (ready 0x000 [0x28, 0x00]) with a := 0x7F })
      (fun t => t.a == 0x80 && t.b == 0x01 && t.cf == false && t.zf == false && t.sf == true) = true := by decide +kernel

/-- T28. -/
theorem test_sub_borrows :
    nextWith (step { putBytes 0x800 [0x11] (ready 0x000 [0x38, 0x00]) with a := 0x10 })
      (fun t => t.a == 0xFF && t.b == 0x11 && t.cf == false && t.zf == false && t.sf == true) = true := by decide +kernel

/-- T29. -/
theorem test_sub_equal :
    nextWith (step { putBytes 0x800 [0x80] (ready 0x000 [0x38, 0x00]) with a := 0x80 })
      (fun t => t.a == 0x00 && t.b == 0x80 && t.cf == true && t.zf == true && t.sf == false) = true := by decide +kernel

/-- T31. -/
theorem test_and_keeps_cf :
    nextWith (step { putBytes 0x800 [0x55] (ready 0x000 [0xA8, 0x00]) with a := 0xAA, cf := true })
      (fun t => t.a == 0x00 && t.b == 0x55 && t.cf == true && t.zf == true && t.sf == false) = true := by decide +kernel

/-- T32. -/
theorem test_and :
    nextWith (step { putBytes 0x800 [0xF0] (ready 0x000 [0xA8, 0x00]) with a := 0xC8, cf := false })
      (fun t => t.a == 0xC0 && t.b == 0xF0 && t.cf == false && t.zf == false && t.sf == true) = true := by decide +kernel

/-- T33. -/
theorem test_or_keeps_cf :
    nextWith (step { putBytes 0x800 [0x55] (ready 0x000 [0xB8, 0x00]) with a := 0xAA, cf := true })
      (fun t => t.a == 0xFF && t.b == 0x55 && t.cf == true && t.zf == false && t.sf == true) = true := by decide +kernel

/-- T34. -/
theorem test_or_zero :
    nextWith (step { ready 0x000 [0xB8, 0x00] with a := 0x00, b := 0x07 })
      (fun t => t.a == 0x00 && t.b == 0x00 && t.cf == false && t.zf == true && t.sf == false) = true := by decide +kernel

/-- T36. -/
theorem test_mull :
    nextWith (step { putBytes 0x800 [0xFF] (ready 0x000 [0xC8, 0x00]) with a := 0xFF })
      (fun t => t.a == 0x01 && t.b == 0xFF && t.zf == false && t.sf == false) = true := by decide +kernel

/-- T37. -/
theorem test_mull_zero_low_byte :
    nextWith (step { putBytes 0x800 [0x02] (ready 0x000 [0xC8, 0x00]) with a := 0x80 })
      (fun t => t.a == 0x00 && t.b == 0x02 && t.zf == true && t.sf == false) = true := by decide +kernel

/-- T38. -/
theorem test_mulh :
    nextWith (step { putBytes 0x800 [0x64] (ready 0x000 [0xD8, 0x00]) with a := 0xC8, cf := true })
      (fun t => t.a == 0x4E && t.b == 0x64 && t.cf == true && t.zf == false && t.sf == false) = true := by decide +kernel

/-- T39. -/
theorem test_mulh_signs :
    nextWith (step { putBytes 0x800 [0xFF] (ready 0x000 [0xD8, 0x00]) with a := 0xFF })
      (fun t => t.a == 0xFE && t.b == 0xFF && t.cf == false && t.zf == false && t.sf == true) = true := by decide +kernel

/-- T50. -/
theorem test_jmp :
    nextWith (step (ready 0x004 [0x50, 0x00]))
      (fun t => t.pc == 0x000 && t.mar == 0x005 && t.ir == 0x50 && t.ir2 == 0x00) = true := by decide +kernel

/-- T51. -/
theorem test_jmp_to_itself :
    nextWith (step (ready 0x100 [0x51, 0x00]))
      (fun t => t.pc == 0x100 && t.mar == 0x101 && t.ir == 0x51) = true := by decide +kernel

/-- T52. -/
theorem test_jmpc_taken :
    nextWith (step { ready 0x003 [0x60, 0x07] with cf := true })
      (fun t => t.pc == 0x007 && t.mar == 0x004 && t.ir == 0x60 && t.cf == true && t.zf == false && t.sf == false) = true := by decide +kernel

/-- T53. -/
theorem test_jmpc_not_taken :
    nextWith (step { ready 0x003 [0x60, 0x07] with ir2 := 0x99, zf := true, sf := true })
      (fun t => t.pc == 0x005 && t.mar == 0x003 && t.ir2 == 0x99 && t.cf == false && t.zf == true && t.sf == true) = true := by decide +kernel

/-- T54. -/
theorem test_jmpz_taken :
    nextWith (step { ready 0x004 [0x70, 0x08] with zf := true })
      (fun t => t.pc == 0x008 && t.mar == 0x005) = true := by decide +kernel

/-- T55. -/
theorem test_jmpz_not_taken :
    nextWith (step { ready 0x004 [0x70, 0x08] with cf := true, sf := true })
      (fun t => t.pc == 0x006 && t.mar == 0x004) = true := by decide +kernel

/-- T56. -/
theorem test_jmpn_taken :
    nextWith (step { ready 0x00E [0x80, 0x12] with sf := true })
      (fun t => t.pc == 0x012 && t.mar == 0x00F) = true := by decide +kernel

/-- T58. -/
theorem test_jmpn_not_taken_wraps :
    nextWith (step (ready 0xFFF [0x8A, 0x34]))
      (fun t => t.pc == 0x001 && t.mar == 0xFFF) = true := by decide +kernel

/-- T59. -/
theorem test_jsr :
    nextWith (step (ready 0x000 [0x9F, 0xFC]))
      (fun t => t.pc == 0xFFC && t.sp == 0x01 && t.mar == 0x001 && t.stk[0] == 0x002) = true := by decide +kernel

/-- T60. -/
theorem test_jsr_wraps_sp :
    nextWith (step { ready 0x123 [0x94, 0x56] with sp := 0xFF })
      (fun t => t.pc == 0x456 && t.sp == 0x00 && t.mar == 0x124 && t.stk[255] == 0x125) = true := by decide +kernel

/-- T70. -/
theorem test_ldi :
    nextWith (step { ready 0x000 [0xE0, 0x00] with a := 0x55, sf := true, cf := true })
      (fun t => t.a == 0x00 && t.pc == 0x002 && t.mar == 0x001 && t.ir == 0xE0 && t.cf == true && t.zf == false && t.sf == true) = true := by decide +kernel

/-- T71. -/
theorem test_ldib :
    nextWith (step { ready 0x000 [0xE1, 0x11] with a := 0x10 })
      (fun t => t.a == 0x10 && t.b == 0x11 && t.pc == 0x002) = true := by decide +kernel

/-- T72. -/
theorem test_add_imm :
    nextWith (step { ready 0x002 [0xE2, 0x05] with a := 0x07 })
      (fun t => t.a == 0x0C && t.b == 0x05 && t.pc == 0x004 && t.cf == false && t.zf == false && t.sf == false) = true := by decide +kernel

/-- T74. -/
theorem test_add_imm_carries :
    nextWith (step { ready 0x000 [0xE2, 0x01] with a := 0xFF, b := 0x09 })
      (fun t => t.a == 0x00 && t.b == 0x01 && t.cf == true && t.zf == true && t.sf == false) = true := by decide +kernel

/-- T75. -/
theorem test_sub_imm_zero :
    nextWith (step { ready 0x002 [0xE3, 0x00] with a := 0x00, b := 0x09 })
      (fun t => t.a == 0x00 && t.b == 0x00 && t.cf == true && t.zf == true && t.sf == false) = true := by decide +kernel

/-- T76. -/
theorem test_sub_imm_borrows :
    nextWith (step { ready 0x000 [0xE3, 0x01] with a := 0x00, b := 0x09, cf := true })
      (fun t => t.a == 0xFF && t.b == 0x01 && t.cf == false && t.zf == false && t.sf == true) = true := by decide +kernel

/-- T80. -/
theorem test_halt_imm :
    nextWith (step (ready 0x00A [0xE5, 0x07]))
      (fun t => t.out == 0x07 && t.pc == 0x00C && t.ir == 0xE5 && t.microStep == 0x5 && t.halted && t.cw == 0x004000 && t.outTrace == [0x07]) = true := by decide +kernel

/-- T81. -/
theorem test_setp :
    nextWith (step { ready 0x000 [0xE6, 0x20] with a := 0x01 })
      (fun t => t.a == 0x01 && t.pc == 0x002 && t.screenEvents == [.pi 0x20] && t.screenPtr == 0x20) = true := by decide +kernel

/-- T90. -/
theorem test_out :
    nextWith (step { ready 0x004 [0xF0] with a := 0x0C })
      (fun t => t.a == 0x0C && t.out == 0x0C && t.pc == 0x005 && t.mar == 0x004 && t.ir == 0xF0 && t.outTrace == [0x0C]) = true := by decide +kernel

/-- T91. -/
theorem test_inc_carries :
    nextWith (step { ready 0x000 [0xF1] with a := 0xFF })
      (fun t => t.a == 0x00 && t.cf == true && t.zf == true && t.sf == false) = true := by decide +kernel

/-- T92. -/
theorem test_inc_signs :
    nextWith (step { ready 0x000 [0xF1] with a := 0x7F, cf := true })
      (fun t => t.a == 0x80 && t.cf == false && t.zf == false && t.sf == true) = true := by decide +kernel

/-- T93. -/
theorem test_not_keeps_cf :
    nextWith (step { ready 0x000 [0xF2] with a := 0xFF, cf := true })
      (fun t => t.a == 0x00 && t.cf == true && t.zf == true && t.sf == false) = true := by decide +kernel

/-- T94. -/
theorem test_not :
    nextWith (step { ready 0x000 [0xF2] with a := 0x33 })
      (fun t => t.a == 0xCC && t.cf == false && t.zf == false && t.sf == true) = true := by decide +kernel

/-- T95. -/
theorem test_rsh_loses_the_bit :
    nextWith (step { ready 0x000 [0xF3] with a := 0x01, cf := true })
      (fun t => t.a == 0x00 && t.cf == true && t.zf == true && t.sf == false) = true := by decide +kernel

/-- T96. -/
theorem test_rsh :
    nextWith (step { ready 0x000 [0xF3] with a := 0xFF })
      (fun t => t.a == 0x7F && t.cf == false && t.zf == false && t.sf == false) = true := by decide +kernel

/-- T97. -/
theorem test_lsh_carries :
    nextWith (step { ready 0x000 [0xF4] with a := 0x80 })
      (fun t => t.a == 0x00 && t.cf == true && t.zf == true && t.sf == false) = true := by decide +kernel

/-- T99. -/
theorem test_lsh_signs :
    nextWith (step { ready 0x000 [0xF4] with a := 0x40, cf := true })
      (fun t => t.a == 0x80 && t.cf == false && t.zf == false && t.sf == true) = true := by decide +kernel

/-- T100. -/
theorem test_take :
    nextWith (step { ready 0x000 [0xF5] with b := 0x33 })
      (fun t => t.a == 0x33 && t.b == 0x33 && t.zf == false) = true := by decide +kernel

/-- T101. -/
theorem test_move :
    nextWith (step { ready 0x000 [0xF6] with a := 0x33 })
      (fun t => t.a == 0x33 && t.b == 0x33) = true := by decide +kernel

/-- T107. -/
theorem test_halta :
    nextWith (step { ready 0x015 [0xFA] with a := 0x1A })
      (fun t => t.a == 0x1A && t.out == 0x1A && t.pc == 0x016 && t.microStep == 0x4 && t.halted) = true := by decide +kernel

/-- T108. -/
theorem test_refresh :
    nextWith (step { ready 0x000 [0xFB] with a := 0x05 })
      (fun t => t.a == 0x05 && t.pc == 0x001 && t.screenEvents == [.rf]) = true := by decide +kernel

/-- T109. -/
theorem test_halt :
    nextWith (step { ready 0x005 [0xFC] with a := 0x05, out := 0x0C })
      (fun t => t.a == 0x05 && t.out == 0x0C && t.pc == 0x006 && t.microStep == 0x3 && t.halted) = true := by decide +kernel

/-- T110. -/
theorem test_multl :
    nextWith (step { ready 0x004 [0xFD] with a := 0x10, b := 0x11 })
      (fun t => t.a == 0x10 && t.b == 0x11 && t.pc == 0x005 && t.zf == false && t.sf == false) = true := by decide +kernel

/-- T111. -/
theorem test_multl_zero_low_byte :
    nextWith (step { ready 0x000 [0xFD] with a := 0x80, b := 0x02 })
      (fun t => t.a == 0x00 && t.b == 0x02 && t.zf == true && t.sf == false) = true := by decide +kernel

/-- T61: the cell keeps its content after the pop. -/
theorem test_ret :
    nextWith (step { ready 0xFFF [0xF9] with sp := 1, stk := State.reset.stk.set 0 0x002 })
      (fun t => t.pc == 0x002 && t.sp == 0 && t.mar == 0xFFF && t.ir == 0xF9 && t.stk[0] == 0x002) = true := by decide +kernel

/-- T62: a pop at SP = 0 wraps. -/
theorem test_ret_wraps_sp :
    nextWith (step { ready 0x200 [0xF9] with stk := State.reset.stk.set 255 0x123 })
      (fun t => t.pc == 0x123 && t.sp == 0xFF && t.stk[255] == 0x123) = true := by decide +kernel

/-- T105: a pop at SP = 0 wraps. -/
theorem test_popa_wraps_sp :
    nextWith (step { ready 0 [0xF8] with stk := State.reset.stk.set 255 0x05A })
      (fun t => t.a == 0x5A && t.sp == 0xFF) = true := by decide +kernel

/-- T106: an 8-bit pop of a 12-bit cell gives its low byte. -/
theorem test_popa_of_an_address :
    nextWith (step { ready 0 [0xF8] with sp := 1, stk := State.reset.stk.set 0 0xABC })
      (fun t => t.a == 0xBC && t.sp == 0 && t.stk[0] == 0xABC) = true := by decide +kernel

/-- T79: an 8-bit push at SP = 255 wraps; the cell's low byte is the immediate, the rest free. -/
theorem test_push_imm :
    ∃ (t : State) (upper : Nibble), exec (.pushImm 0xFF) { State.reset with sp := 0xFF } = .next t ∧ t.sp = 0 ∧ t.pc = 2
      ∧ t.stk[255] = upper ++ 0xFF#8 :=
  ⟨_, Config.freeNibble 0, rfl, rfl, rfl, by simp [endInstruction, pushByte, takeImmediate, State.reset]⟩

/-- T102: an 8-bit push of A. -/
theorem test_pusha :
    ∃ (t : State) (upper : Nibble), exec .pusha { State.reset with a := 0x02 } = .next t ∧ t.sp = 1 ∧ t.pc = 1 ∧ t.stk[0] = upper ++ 0x02#8 :=
  ⟨_, Config.freeNibble 0, rfl, rfl, rfl, by simp [endInstruction, pushByte, takeNone, State.reset]⟩

/-! ## The tick -/

/-- Ticks 1, 2 and 5 of the trace of spec/95_test_vectors.md section 4. -/
theorem test_ticks_of_ldi :
    nextWith (ticks romRef 1 (ready 0 [0xE0, 0x07])) (fun t => t.cw == 0x000021 && t.mar == 0 && t.microStep == 1) = true
    ∧ nextWith (ticks romRef 2 (ready 0 [0xE0, 0x07])) (fun t => t.cw == 0x00008C && t.ir == 0xE0 && t.pc == 1) = true
    ∧ nextWith (ticks romRef 5 (ready 0 [0xE0, 0x07])) (fun t => t.a == 7 && t.cw == 0 && t.microStep == 0) = true := by
  decide +kernel

/-- Tick 18 of that trace: the tick that observes HT. -/
theorem test_ticks_of_halt :
    nextWith (ticks romRef 3 (ready 5 [0xFC])) (fun t => t.halted && t.microStep == 3 && t.pc == 6 && t.cw == 0x004000) = true
    := by decide +kernel

/-- The host's stop line ends the run in the tick that samples it, with no datapath action (R164). -/
theorem test_host_stop :
    nextWith (step { ready 5 [0xE0, 0x07] with hostStop := true, mar := 0x123 })
      (fun t => t.halted && t.microStep == 1 && t.mar == 0x123 && t.pc == 5) = true := by decide +kernel

/-- "Programs a model must refuse": at the tick with STEP = 2. -/
theorem test_reserved_first_bytes :
    refusesByte (step (ready 0 [0x00, 0x00])) 0x00 = true ∧ refusesByte (step (ready 0 [0xE7, 0x00])) 0xE7 = true
    ∧ refusesByte (step (ready 0 [0xFE])) 0xFE = true ∧ refusesByte (ticks romRef 3 (ready 0 [0xFE])) 0xFE = true := by
  decide +kernel

/-- A word that R153 does not admit is refused by name. -/
theorem test_not_admitted_is_refused : tick (fun _ => some 0x000100) State.reset = .refused (.notAdmitted 0x000100) := by
  rfl

/-! ## The ROM: the vectors of spec/95_test_vectors.md section 3 -/

theorem test_rom_vectors :
    ([(0, 0x000021), (16377, 0x00008C), (253, 0x000104), (10837, 0x000202), (262, 0x000500), (4606, 0x000900), (1286, 0x001500),
      (1470, 0x001900), (1542, 0x002900), (1670, 0x002D00), (263, 0x000000), (770, 0x000080), (2818, 0x000021),
      (15228, 0x000050), (898, 0x000080), (4994, 0x000021), (11138, 0x000080)] : List (Nat × ControlWord)).all
      (fun row => romRef (BitVec.ofNat 14 row.1) == some row.2) = true := by decide +kernel

theorem test_rom_vectors_2 :
    ([(9218, 0x000021), (7170, 0x000080), (7171, 0x000000), (1156, 0x280020), (1157, 0x000050), (644, 0x000050), (1795, 0x000184),
      (1812, 0x000500), (1836, 0x004000), (1843, 0x800084), (1994, 0x300040), (2003, 0x004000), (16354, 0x004000),
      (2019, 0x000000), (2026, 0x002900)] : List (Nat × ControlWord)).all
      (fun row => romRef (BitVec.ofNat 14 row.1) == some row.2) = true := by decide +kernel

theorem test_rom_undefined_entries :
    ([2, 1850, 2042] : List Nat).all (fun n => romRef (BitVec.ofNat 14 n) == none) = true := by decide +kernel

theorem test_rom_index : indexOf 2 0x70 false true false = 4994 ∧ indexOf 5 0x4A true false true = 10837 := by decide

/-! ## The ALU: vectors of spec/95_test_vectors.md section 5 (result, carry if written) -/

theorem test_alu_arithmetic :
    ([(.add, 0xC8, 0x64, 0x2C, true), (.add, 0x7F, 0x01, 0x80, false), (.sub, 0x10, 0x11, 0xFF, false),
      (.sub, 0x80, 0x80, 0x00, true), (.inc, 0xFF, 0x01, 0x00, true), (.inc, 0xAA, 0x55, 0xAB, false),
      (.dec, 0x00, 0x01, 0xFF, true), (.dec, 0x01, 0x01, 0x00, false), (.dec, 0x80, 0x80, 0x7F, false),
      (.lsh, 0x81, 0x7E, 0x02, true), (.lsh, 0x7F, 0x01, 0xFE, false)] : List (AluOp × Byte × Byte × Byte × Bool)).all
      (fun row => aluResult row.1 row.2.1 row.2.2.1 == row.2.2.2.1
        && aluCarry row.1 row.2.1 row.2.2.1 == some row.2.2.2.2) = true := by decide +kernel

theorem test_alu_logic :
    ([(.and, 0xC8, 0x64, 0x40), (.or, 0xC8, 0x64, 0xEC), (.not, 0xC8, 0x64, 0x37), (.rsh, 0xC8, 0x64, 0x64),
      (.mulh, 0xC8, 0x64, 0x4E), (.mulh, 0xAA, 0x55, 0x38), (.xor, 0xC8, 0x64, 0xAC)] : List (AluOp × Byte × Byte × Byte)).all
      (fun row => aluResult row.1 row.2.1 row.2.2.1 == row.2.2.2 && (aluCarry row.1 row.2.1 row.2.2.1).isNone) = true := by
  decide +kernel

theorem test_alu_mull :
    aluResult .mull 0xAA 0x55 = 0x72 ∧ aluResult .mull 0x80 0x80 = 0x00 ∧ aluResult .mull 0xC8 0x64 = 0x20 := by decide

theorem test_alu_reserved_codes :
    aluOpOfCode 0b0000 = none ∧ aluOpOfCode 0b1101 = none ∧ aluOpOfCode 0b1110 = none ∧ aluOpOfCode 0b1111 = none := by decide

/-! ## RAM -/

theorem test_memory_canonical_form :
    (writeByte 0x010 0 (writeByte 0x800 7 (writeByte 0x010 5 State.reset))).ram = [(0x800, 7)]
    ∧ Memory.wf [(5, 1), (5, 2)] = false ∧ Memory.wf [(5, 0)] = false ∧ Memory.wf [(4096, 1)] = false := by decide

theorem test_boot_image :
    readByte (State.boot Init.zero [0xE0, 0x07, 0xFC]) 1 = 0x07 ∧ readByte (State.boot Init.zero [0xE0, 0x07, 0xFC]) 3 = 0 := by
  decide +kernel

/-! ## Witnesses: for each obligation with hypotheses, a state and operands that meet all of them -/

/-- DecodedBytesAreTheEncoding: bytes that decode, with bytes left over, for each length. -/
theorem witness_decodes :
    decode [0x1A, 0xBC, 0xFC] = .ok (.lda 0xABC, [0xFC]) ∧ decode [0xFD, 0x00] = .ok (.multl, [0x00]) := by decide

/-- StepRunsDecodedInstruction, at the top of RAM too. -/
theorem witness_step_runs :
    (ReadyToFetch (ready 0xFFF [0x18, 0x00])
      ∧ decode (bytesFrom (ready 0xFFF [0x18, 0x00]) 0xFFF 2) = .ok (.lda 0x800, []))
    ∧ (ReadyToFetch (ready 0 [0xF9]) ∧ decode (bytesFrom (ready 0 [0xF9]) 0 2) = .ok (.ret, [0])) := by decide +kernel

/-- ReservedOpcodesAreRefused, at the ends of each range. -/
theorem witness_reserved :
    ([0x00, 0x0F, 0xE7, 0xEF, 0xFE, 0xFF] : List Byte).all (fun b0 =>
      decide (ReadyToFetch (ready 0 [b0])) && reservedByte (readByte (ready 0 [b0]) (ready 0 [b0]).pc)) = true := by
  decide +kernel

/-- NoInstructionCanFail and HaltedMachineTakesNoTick: a halted machine, whose step is the fault. -/
theorem witness_halted :
    ({ State.reset with halted := true } : State).halted = true
    ∧ step { State.reset with halted := true } = .fault .halted := ⟨rfl, rfl⟩

/-- StepKeepsTheInvariant: a state with the invariant, traces not empty and RAM listed, whose step answers. -/
theorem witness_invariant :
    StateInv { ready 0 [0xE0, 0x07] with out := 5, outTrace := [5], screenPtr := 9, screenEvents := [.rf, .pi 9] }
    ∧ nextWith (step { ready 0 [0xE0, 0x07] with out := 5, outTrace := [5], screenPtr := 9, screenEvents := [.rf, .pi 9] })
      (fun t => t.a == 7) = true :=
  ⟨⟨by decide +kernel, .inr ⟨rfl, rfl⟩, fun v h => by cases h; rfl, fun v h => by cases h; rfl⟩, by decide +kernel⟩

/-- HiddenRegistersDoNotMatter: two states that differ in all four hidden registers. -/
theorem witness_hidden :
    forgetHidden { ready 0 [0x1A, 0xBC] with ir := 1, ir2 := 2, mar := 3, cw := 4 } = forgetHidden (ready 0 [0x1A, 0xBC])
    ∧ ({ ready 0 [0x1A, 0xBC] with ir := 1, ir2 := 2, mar := 3, cw := 4 } : State).microStep = 0
    ∧ ({ ready 0 [0x1A, 0xBC] with ir := 1, ir2 := 2, mar := 3, cw := 4 } : State).cw ≠ (ready 0 [0x1A, 0xBC]).cw :=
  ⟨rfl, rfl, by decide⟩

/-- Every statement with RunsAs: the machine ready to fetch with the instruction at PC, here across the top of RAM. -/
theorem witness_runs_as :
    ([.lda 0xABC, .add 0, .sub 0xFFF, .sta 0x4FF, .jmp 0x123, .jmpc 7, .jmpz 0xF00, .jmpn 0x012, .jsr 0xFFC, .and 0x801,
      .or 0x802, .mull 0x800, .mulh 0x800, .ldi 255, .ldib 17, .addImm 5, .subImm 0] : List Instr).all (fun i =>
      decide (ReadyToFetch (ready 0xFFF (encode i))) && decide (PlacedAtPc i (ready 0xFFF (encode i)))) = true := by
  decide +kernel

theorem witness_runs_as_2 :
    ([.pushImm 0x33, .haltImm 7, .setp 32, .out, .inc, .not, .rsh, .lsh, .take, .move, .pusha, .popa, .ret, .halta, .refresh,
      .halt, .multl] : List Instr).all (fun i =>
      decide (ReadyToFetch (ready 0xFFF (encode i))) && decide (PlacedAtPc i (ready 0xFFF (encode i)))) = true := by
  decide +kernel

/-- BranchesTestTheirFlag: each branch, its flag set in one state and clear in the other. -/
theorem witness_branches (s : State) :
    (0x6#4, s.cf, Instr.jmpc) ∈ [(0x6#4, s.cf, Instr.jmpc), (0x7#4, s.zf, Instr.jmpz), (0x8#4, s.sf, Instr.jmpn)]
    ∧ (0x7#4, s.zf, Instr.jmpz) ∈ [(0x6#4, s.cf, Instr.jmpc), (0x7#4, s.zf, Instr.jmpz), (0x8#4, s.sf, Instr.jmpn)]
    ∧ (0x8#4, s.sf, Instr.jmpn) ∈ [(0x6#4, s.cf, Instr.jmpc), (0x7#4, s.zf, Instr.jmpz), (0x8#4, s.sf, Instr.jmpn)]
    ∧ (flags State.reset = (false, false, false)
      ∧ flags { State.reset with cf := true, zf := true, sf := true } = (true, true, true)) := by
  simp [flags, State.reset]

/-- RetReturnsAfterTheJsr: the state after a JSR that wraps SP, itself and with other registers changed. -/
theorem witness_ret_after_jsr :
    ∃ t, exec (.jsr 0x456) { State.reset with pc := 0x123, sp := 0xFF } = .next t
      ∧ (({ t with a := 7, pc := 0x800 } : State).sp = t.sp ∧ topCell { t with a := 7, pc := 0x800 } = topCell t) :=
  ⟨_, rfl, rfl, rfl⟩

/-- OnlyStaWritesRam: an instruction that is no STA, and a STA with another operand. -/
theorem witness_frame_of_ram :
    (∃ t, exec (.lda 0x800) State.reset = .next t) ∧ Instr.lda 0x800 ≠ .sta 0x801
    ∧ (∃ t, exec (.sta 0x800) State.reset = .next t) ∧ Instr.sta 0x800 ≠ .sta 0x801 :=
  ⟨⟨_, rfl⟩, by decide, ⟨_, rfl⟩, by decide⟩

/-- FlagsChangeOnlyByAluInstructions: a next state with ZF and CF changed, and one with SF changed. -/
theorem witness_frame_of_flags :
    nextWith (exec .inc { State.reset with a := 0xFF }) (fun t => t.zf != State.reset.zf && t.cf != State.reset.cf) = true
    ∧ nextWith (exec .not State.reset) (fun t => t.sf != State.reset.sf) = true := by decide +kernel

/-- DataRegistersChangeOnlyByTheirWriters: next states with A, with B and with IR2 changed. -/
theorem witness_frame_of_data_registers :
    nextWith (exec (.ldi 7) State.reset) (fun t => t.a != State.reset.a) = true
    ∧ nextWith (exec (.ldib 7) State.reset) (fun t => t.b != State.reset.b) = true
    ∧ nextWith (exec (.jmp 0x001) State.reset) (fun t => t.ir2 != State.reset.ir2) = true := by decide +kernel

/-- StackChangesOnlyByPushesAndPops: a push, a pop, and neither; a cell other than SP's at a push. -/
theorem witness_frame_of_stack :
    ((∃ t, exec (.jsr 5) State.reset = .next t) ∧ ∃ m, Instr.jsr 5 = .jsr m)
    ∧ (∃ t, exec (.pushImm 5) State.reset = .next t) ∧ (∃ t, exec .pusha State.reset = .next t)
    ∧ (∃ t, exec .ret State.reset = .next t) ∧ (∃ t, exec .popa State.reset = .next t)
    ∧ (∃ t, exec .out State.reset = .next t) ∧ (0xFF : BitVec 8) ≠ State.reset.sp :=
  ⟨⟨⟨_, rfl⟩, _, rfl⟩, ⟨_, rfl⟩, ⟨_, rfl⟩, ⟨_, rfl⟩, ⟨_, rfl⟩, ⟨_, rfl⟩, by decide⟩

/-- OutputsChangeOnlyByTheirWriters: next states with OUT, with the screen's side and with HALTED changed. -/
theorem witness_frame_of_outputs :
    nextWith (exec (.haltImm 7) State.reset) (fun t => t.out != State.reset.out && t.halted && !State.reset.halted) = true
    ∧ nextWith (exec (.setp 7) State.reset) (fun t => t.screenPtr != State.reset.screenPtr) = true
    ∧ nextWith (exec .refresh State.reset) (fun t => t.screenEvents != State.reset.screenEvents) = true
    ∧ nextWith (exec .out State.reset) (fun t => t.outTrace != State.reset.outTrace) = true := by decide +kernel

/-- ReadAfterWrite: another state with the same RAM. -/
theorem witness_same_ram : ({ State.reset with a := 9 } : State).ram = State.reset.ram := rfl

/-- StoresReachLaterFetches: a later state that fetches the stored byte; a STA over each of its own bytes. -/
theorem witness_stores_reach_fetches :
    (∃ t, exec (.sta 0x800) { State.reset with a := 0xFC } = .next t
      ∧ (({ t with pc := 0x800 } : State).ram = t.ram ∧ ({ t with pc := 0x800 } : State).pc = 0x800))
    ∧ (ReadyToFetch (ready 0x030 [0x40, 0x31]) ∧ PlacedAtPc (.sta 0x031) (ready 0x030 [0x40, 0x31])
      ∧ (0x031 : Word) = (ready 0x030 [0x40, 0x31]).pc + 1)
    ∧ (ReadyToFetch (ready 0x030 [0x40, 0x30]) ∧ PlacedAtPc (.sta 0x030) (ready 0x030 [0x40, 0x30])
      ∧ (0x030 : Word) = (ready 0x030 [0x40, 0x30]).pc) :=
  ⟨⟨_, rfl, rfl, rfl⟩, by decide +kernel, by decide +kernel⟩

/-- PopsReverseThePushes: the longest list of addresses and of bytes, and its first and last index. -/
theorem witness_pushes {α : Type} (v : α) :
    (List.replicate 256 v).length ≤ 256 ∧ 0 < (List.replicate 256 v).length ∧ 255 < (List.replicate 256 v).length := by
  simp only [List.length_replicate]
  omega

/-- TicksWriteTheFlagsByLaw: an ALU tick of the reference ROM with a carry, one without, and a tick without ALU operation. -/
theorem witness_alu_ticks :
    (({ State.reset with microStep := 6, ir := 0x20 } : State).hostStop = false
      ∧ romRef (romIndex { State.reset with microStep := 6, ir := 0x20 }) = some 0x000500
      ∧ nextWith (tick romRef { State.reset with microStep := 6, ir := 0x20 }) (fun t => t.zf) = true
      ∧ aluOpOfCode (aluCode 0x000500) = some .add ∧ AluOp.add ∈ [AluOp.add, .sub, .inc, .dec, .lsh, .mull])
    ∧ (romRef (romIndex { State.reset with microStep := 2, ir := 0xF2 }) = some 0x001D00
      ∧ nextWith (tick romRef { State.reset with microStep := 2, ir := 0xF2 }) (fun t => t.sf) = true
      ∧ aluOpOfCode (aluCode 0x001D00) = some .not ∧ AluOp.not ∈ [AluOp.and, .or, .not, .rsh, .mulh, .xor])
    ∧ (romRef (romIndex State.reset) = some 0x000021 ∧ aluCode 0x000021 = 0
      ∧ nextWith (tick romRef State.reset) (fun t => t.mar == 0) = true) := by decide +kernel

/-- TerminatorTickChangesNothingElse. -/
theorem witness_terminator :
    ({ State.reset with microStep := 6, ir := 0x10 } : State).halted = false
    ∧ ({ State.reset with microStep := 6, ir := 0x10 } : State).hostStop = false
    ∧ romRef (romIndex { State.reset with microStep := 6, ir := 0x10 }) = some 0 := by decide +kernel

/-- NonZeroWordIncrementsStep, in the reference ROM and, at STEP = 7, in a ROM whose frames have no terminator. -/
theorem witness_non_zero_word :
    (romRef (romIndex State.reset) = some 0x000021 ∧ nextWith (tick romRef State.reset) (fun t => t.microStep == 1) = true)
    ∧ nextWith (tick (fun _ => some 0x000080) { State.reset with microStep := 7 }) (fun t => t.microStep == 0) = true := by
  decide +kernel

/-- HaltTickPerformsNoDatapathAction: the HT word, a word with the host's stop, and the zero word with the host's stop. -/
theorem witness_halt_tick :
    (romRef (romIndex { State.reset with microStep := 2, ir := 0xFC }) = some 0x004000 ∧ admitted 0x004000 = true
      ∧ asserts 0x004000 .ht = true ∧ State.reset.halted = false)
    ∧ (romRef (romIndex { State.reset with hostStop := true }) = some 0x000021 ∧ admitted 0x000021 = true)
    ∧ romRef (romIndex { State.reset with hostStop := true, microStep := 7, ir := 0x10 }) = some 0 := by decide +kernel

/-- AdmittedIsTheEightConditions, the refusal: a ROM with a word that is not admitted. -/
theorem witness_not_admitted :
    (fun _ => some 0x000100#24 : Rom) (romIndex State.reset) = some 0x000100#24 ∧ (0x000100#24 ≠ 0)
    ∧ admitted 0x000100 = false ∧ State.reset.halted = false := by decide

/-- AdmittedTickFollowsTheLines: the words of a 12-bit push, an 8-bit push, a pop, an ALU operation, a store and others, and
two words outside the reference ROM (XOR into A; B into A, B, OUT at once), each in a ROM that gives it to every index. -/
theorem witness_admitted_words :
    ([0x280020, 0x080200, 0x100100, 0x300040, 0x000500, 0x000202, 0x000021, 0x020084, 0x800084, 0x400000, 0x003100,
      0x038100] : List ControlWord).all (fun w => admitted w && !asserts w .ht) = true
    ∧ State.reset.halted = false ∧ State.reset.hostStop = false
    ∧ (fun _ => some 0x003100#24 : Rom) (romIndex State.reset) = some 0x003100#24 := by decide

/-- A tick on those two words, by hand: 0xAA ^^^ 0x55 = 0xFF with CF kept; B copied to A and OUT, and kept. -/
theorem test_ticks_outside_the_reference_rom :
    nextWith (tick (fun _ => some 0x003100#24) { State.reset with a := 0xAA, b := 0x55, cf := true })
      (fun t => t.a == 0xFF && t.b == 0x55 && t.cf && !t.zf && t.sf && t.microStep == 1) = true
    ∧ nextWith (tick (fun _ => some 0x038100#24) { State.reset with a := 0xAA, b := 0x55 })
      (fun t => t.a == 0x55 && t.b == 0x55 && t.out == 0x55 && t.outTrace == [0x55]) = true := by decide +kernel

/-- A ROM of fetch pairs and terminators, for the witness below. -/
def fetchOnlyRom : Rom := fun idx => some (if indexStep idx = 0 then 0x000021 else if indexStep idx = 1 then 0x00008C else 0)

/-- FetchPairOfAnyRom: a well-formed ROM, and a machine ready to fetch. -/
theorem witness_well_formed_rom : fetchOnlyRom.WellFormed ∧ ReadyToFetch State.reset := by
  refine ⟨⟨fun ir cf zf sf => by simp [fetchOnlyRom], fun idx w h hw => ?_⟩, by decide⟩
  simp only [fetchOnlyRom, Option.some.injEq] at h
  split at h
  · subst h; decide
  · split at h
    · subst h; decide
    · exact absurd h.symm hw

/-- HostLoopEndsAtHaltOrCap: a loop that ends at the halt, and one that ends at the cap; the halt comes with the third tick,
which is where the loop without a cap ends. -/
theorem witness_host_loop :
    nextWith (hostRun romRef 9 (ready 5 [0xFC])) (fun t => t.halted) = true
    ∧ nextWith (hostRun romRef 2 (ready 5 [0xFC])) (fun t => !t.halted && t.microStep == 2) = true
    ∧ ((ready 5 [0xFC]).halted = false ∧ nextWith (ticks romRef 3 (ready 5 [0xFC])) (fun t => t.halted) = true) := by
  decide +kernel

/-- HostLoopEndsAtHaltOrCap, no cap: a machine at the HT word, whose first tick ends the loop. -/
theorem witness_host_loop_without_cap :
    ∃ t, HostLoop romRef none { State.reset with microStep := 2, ir := 0xFC } (.next t) ∧ t.halted = true :=
  ⟨_, ⟨rfl, 0, rfl⟩, rfl⟩

/-- HostLoopEndsAtHaltOrCap, a loop that never ends: a ROM of terminators, under which every tick gives a running machine. -/
theorem witness_endless_ticks : ∀ n, ∃ u, ticks (fun _ => some 0) n State.reset = .next u ∧ u.halted = false := by
  have h : ∀ n, ticks (fun _ => some 0) n State.reset = .next State.reset := by
    intro n
    induction n with
    | zero => rfl
    | succ n ih => exact ih
  exact fun n => ⟨_, h n, rfl⟩

/-- The micro-program statements: a first and a last row of each list, and a reserved byte. -/
theorem witness_micro_program_rows :
    (0xD#4, [0x008004#24, 0x002D00#24]) ∈ [(0x1#4, [0x000104#24]), (0xD#4, [0x008004#24, 0x002D00#24])]
    ∧ (0xE0#8, [0x000184#24]) ∈ [(0xE0#8, [0x000184#24]), (0xE6#8, [0x800084#24])]
    ∧ (0xF9#8, 0x300040#24) ∈ [(0xF0#8, 0x020200#24), (0xF9#8, 0x300040#24)]
    ∧ (0xFA#8, [0x020200#24, 0x004000#24]) ∈ [(0xFA#8, [0x020200#24, 0x004000#24]), (0xFD#8, [0x002900#24])]
    ∧ reservedByte 0x00 = true := by decide

end Sys2Proof.Tests
end

section
/-! The host's loop of ticks against runs of ticks: what a loop that gives a state has done, and when the loop ends. -/

namespace Sys2Proof.Machine

variable {rom : Rom} {s t : State}

theorem tick_of_halted (h : s.halted = true) : tick rom s = .fault .halted := by simp [tick, h]

/-- The tick that a run of ticks begins with, where the run gives a state. -/
theorem ticks_succ_next {n : Nat} (h : ticks rom (n + 1) s = .next t) :
    ∃ u, tick rom s = .next u ∧ ticks rom n u = .next t := by
  rw [ticks_succ] at h
  cases hu : tick rom s with
  | next u => exact ⟨u, rfl, by simpa [hu] using h⟩
  | fault r => simp [hu] at h
  | refused r => simp [hu] at h

/-- A run of ticks that gives a state cannot go on past the halt. -/
theorem ticks_of_halted {n : Nat} (hs : s.halted = true) (h : ticks rom n s = .next t) : n = 0 := by
  cases n with
  | zero => rfl
  | succ n =>
    obtain ⟨u, hu, -⟩ := ticks_succ_next h
    simp [tick_of_halted hs] at hu

/-- The machine runs after each tick but the last of a number of ticks. -/
def RunningBefore (rom : Rom) (n : Nat) (s : State) : Prop :=
  ∀ k, 0 < k → k < n → ∃ u, ticks rom k s = .next u ∧ u.halted = false

/-- The running states of one tick and a run after it. -/
theorem runningBefore_succ {n : Nat} {u : State} (hu : tick rom s = .next u) (hh : u.halted = false)
    (h : RunningBefore rom n u) : RunningBefore rom (n + 1) s := by
  rintro (_ | _ | k) hk hkn
  · omega
  · exact ⟨u, by simp [ticks_succ, hu], hh⟩
  · simpa [ticks_succ, hu] using h (k + 1) (by omega) (by omega)

/-- A loop under a number that gives a state has taken so many ticks, the cap's number or fewer up to the halt, with the machine
running after each of those before the last. -/
theorem ticks_of_hostRun {c : Nat} (h : hostRun rom c s = .next t) :
    ∃ n, ticks rom n s = .next t ∧ (c = n ∨ t.halted = true) ∧ n ≤ c ∧ RunningBefore rom n s := by
  induction c generalizing s with
  | zero => exact ⟨0, h, .inl rfl, le_rfl, fun k _ _ => by omega⟩
  | succ c ih =>
    rw [hostRun_succ] at h
    cases hu : tick rom s with
    | next u =>
      cases hh : u.halted with
      | true =>
        obtain rfl : u = t := by simpa [hu, hh] using h
        exact ⟨1, by simp [ticks_succ, hu], .inr hh, by omega, fun k _ _ => by omega⟩
      | false =>
        obtain ⟨n, hn, hend, hle, hrun⟩ := ih (s := u) (by simpa [hu, hh] using h)
        exact ⟨n + 1, by simp [ticks_succ, hu, hn], hend.imp_left (congrArg (· + 1)), by omega, runningBefore_succ hu hh hrun⟩
    | fault r => simp [hu] at h
    | refused r => simp [hu] at h

/-- The loop takes the ticks of a run that gives a state: such a run has no halt before its end. -/
theorem hostRun_of_ticks {n : Nat} (h : ticks rom n s = .next t) : hostRun rom n s = .next t := by
  induction n generalizing s with
  | zero => exact h
  | succ n ih =>
    obtain ⟨u, hu, h⟩ := ticks_succ_next h
    cases hh : u.halted with
    | true =>
      obtain rfl := ticks_of_halted hh h
      simpa [hostRun_succ, hu, hh] using h
    | false => simpa [hostRun_succ, hu, hh] using ih h

/-- Two loops that have both ended their run agree, whatever their caps. -/
theorem hostRun_ended_unique {m n : Nat} (hm : endsRun (hostRun rom (m + 1) s) = true)
    (hn : endsRun (hostRun rom (n + 1) s) = true) : hostRun rom (m + 1) s = hostRun rom (n + 1) s := by
  obtain hle | hle := Nat.le_total m n
  · obtain ⟨k, rfl⟩ := Nat.exists_eq_add_of_le hle
    exact (hostRun_ended rom s m k hm).symm
  · obtain ⟨k, rfl⟩ := Nat.exists_eq_add_of_le hle
    exact hostRun_ended rom s n k hn

theorem hostLoop_next_ticks {cap : Option Nat} (h : HostLoop rom cap s (.next t)) :
    ∃ n, ticks rom n s = .next t ∧ (cap = some n ∨ t.halted = true) ∧ (∀ c, cap = some c → n ≤ c)
      ∧ RunningBefore rom n s := by
  cases cap with
  | some c =>
    obtain ⟨n, hn, hend, hle, hrun⟩ := ticks_of_hostRun h
    exact ⟨n, hn, hend.imp_left (congrArg some), by rintro _ ⟨⟩; exact hle, hrun⟩
  | none =>
    obtain ⟨ht, m, hm⟩ := h
    obtain ⟨n, hn, -, -, hrun⟩ := ticks_of_hostRun hm
    exact ⟨n, hn, .inr ht, by simp, hrun⟩

theorem hostLoop_none_of_halt {n : Nat} (hs : s.halted = false) (h : ticks rom n s = .next t) (ht : t.halted = true) :
    HostLoop rom none s (.next t) := by
  cases n with
  | zero =>
    obtain rfl : s = t := by simpa using h
    simp [hs] at ht
  | succ n => exact ⟨ht, n, hostRun_of_ticks h⟩

theorem not_hostLoop_none_of_endless (h : ∀ n, ∃ u, ticks rom n s = .next u ∧ u.halted = false)
    (o : Host.Outcome State Fault Refusal) : ¬ HostLoop rom none s o := by
  rintro ⟨ho, n, rfl⟩
  obtain ⟨u, hu, hrun⟩ := h (n + 1)
  simp [hostRun_of_ticks hu, endsRun, hrun] at ho

theorem hostLoop_unique {cap : Option Nat} {o p : Host.Outcome State Fault Refusal} (ho : HostLoop rom cap s o)
    (hp : HostLoop rom cap s p) : o = p := by
  cases cap with
  | some c => exact Eq.trans (Eq.symm ho) hp
  | none =>
    obtain ⟨ho, m, rfl⟩ := ho
    obtain ⟨hp, n, rfl⟩ := hp
    exact hostRun_ended_unique ho hp

/-- Settles O53: what a loop has done, by induction on the cap; where it ends without one, by induction on the ticks. -/
theorem hostLoopEndsAtHaltOrCap : Obligations.HostLoopEndsAtHaltOrCap :=
  ⟨fun _ _ _ _ => hostLoop_next_ticks, fun _ _ _ _ => hostLoop_none_of_halt,
    fun _ _ => not_hostLoop_none_of_endless, fun _ _ _ _ _ => hostLoop_unique⟩

end Sys2Proof.Machine
end

section
/-! Runs of the reference machine through one frame of its ROM (spec/41_control_and_tick.md R183, spec/42_microcode_rom.md
R205 to R207): each instruction standing at PC of a machine ready to fetch runs in its number of ticks. -/

namespace Sys2Proof.Machine

/-! ## Runs that end an instruction -/

/-- So many ticks of the reference machine give an outcome, and before the last of them no boundary and no halt is reached. -/
inductive RunsTo : Nat → State → Host.Outcome State Fault Refusal → Prop
  | one {s o} (h : tick romRef s = o) : RunsTo 1 s o
  | succ {n s t o} (ht : tick romRef s = .next t) (hm : t.microStep ≠ 0) (hh : t.halted = false) (h : RunsTo n t o) :
    RunsTo (n + 1) s o

variable {s t : State} {i : Instr} {n : Nat} {w : ControlWord} {ws : List ControlWord}
  {o : Host.Outcome State Fault Refusal}

theorem RunsTo.ticks_eq (h : RunsTo n s o) : ticks romRef n s = o := by
  induction h with
  | one h => rw [ticks_succ, h]; split <;> rfl
  | succ ht _ _ _ ih => simpa [ticks_succ, ht] using ih

theorem RunsTo.before (h : RunsTo n s o) :
    ∀ k, 0 < k → k < n → ∃ t, ticks romRef k s = .next t ∧ t.microStep ≠ 0 ∧ t.halted = false := by
  induction h with
  | one => omega
  | @succ n s t o ht hm hh _ ih =>
    rintro (_ | _ | k) h0 hk
    · omega
    · exact ⟨t, by simp [ticks_succ, ht], hm, hh⟩
    · simpa [ticks_succ, ht] using ih (k + 1) (by omega) (by omega)

/-- The ticks up to the boundary are those of a run that gives a state at a boundary or halted, or no state. -/
theorem RunsTo.toBoundary_eq {m : Nat} (h : RunsTo n s o) (ho : ∀ t, o = .next t → t.halted = true ∨ t.microStep = 0)
    (hm : n ≤ m) : toBoundary romRef m s = o := by
  obtain ⟨m, rfl⟩ : ∃ k, m = n + k := Nat.exists_eq_add_of_le hm
  induction h with
  | @one s o h =>
    rw [Nat.add_comm, toBoundary, h]
    cases o with
    | next t => exact if_pos (by simpa using ho t rfl)
    | fault | refused => rfl
  | succ ht hstep hh _ ih =>
    rw [Nat.add_right_comm, toBoundary, ht]
    simp only [hh, hstep, Bool.false_or, beq_iff_eq, if_false]
    exact ih ho (Nat.le_add_right ..)

/-! ## The words of a frame -/

/-- Every micro-program begins with the fetch pair and leaves room for a terminator (R205, R207). -/
theorem microProgram_shape {ir : Byte} {cf zf sf : Bool} {p : List ControlWord} (h : microProgram ir cf zf sf = some p) :
    fetchPair <+: p ∧ p.length ≤ 7 := by
  have nullary : ∀ row ∈ nullaryPrograms, fetchPair <+: row.2 ∧ row.2.length ≤ 7 := by decide
  have immediate : ∀ row ∈ immediatePrograms, fetchPair <+: row.2 ∧ row.2.length ≤ 7 := by decide
  have addressed : ∀ cf zf sf, ∀ row ∈ addressedPrograms cf zf sf, fetchPair <+: row.2 ∧ row.2.length ≤ 7 := by decide
  rw [microProgram] at h
  split at h
  · exact nullary _ (lookupNibble_mem h)
  · split at h
    · exact immediate _ (lookupNibble_mem h)
    · exact addressed cf zf sf _ (lookupNibble_mem h)

/-- R205, R244: the first two words of any frame, that of a reserved byte included. -/
theorem microWord_of_fetch {k : BitVec 3} (hk : k.toNat < 2) (ir : Byte) (cf zf sf : Bool) :
    microWord k ir cf zf sf = some (fetchPair[k.toNat]'hk) := by
  rw [microWord]
  split
  case h_1 p hp =>
    obtain ⟨q, rfl⟩ := (microProgram_shape hp).1
    rw [List.getD_eq_getElem?_getD, List.getElem?_append_left hk, List.getElem?_eq_getElem hk, Option.getD_some]
  case h_2 => exact List.getElem?_eq_getElem hk

/-- A running machine inside a frame, with these words of its micro-program still to come. -/
structure InFrame (ws : List ControlWord) (s : State) : Prop where
  halted : s.halted = false
  hostStop : s.hostStop = false
  words : ∃ p, microProgram s.ir s.cf s.zf s.sf = some p ∧ p.drop s.microStep.toNat = ws

/-- A tick that goes on to the next word of the same frame. -/
structure Advances (s t : State) : Prop where
  halted : t.halted = s.halted
  hostStop : t.hostStop = s.hostStop
  microStep : t.microStep = s.microStep + 1
  program : microProgram t.ir t.cf t.zf t.sf = microProgram s.ir s.cf s.zf s.sf

/-- A tick in a frame reads its next word, the terminator where the micro-program is at its end (R207). -/
theorem InFrame.tick_eq (h : InFrame ws s) : tick romRef s = tickWord (ws.headD 0) s := by
  obtain ⟨hh, -, p, hp, rfl⟩ := h
  simp [tick_romRef, hh, microWord, hp, List.getD_eq_getElem?_getD, List.head?_drop]

theorem InFrame.next (h : InFrame (w :: ws) s) (ha : Advances s t) : InFrame ws t ∧ t.microStep ≠ 0 ∧ t.halted = false := by
  obtain ⟨hh, hs, p, hp, hw⟩ := h
  have hlen : s.microStep.toNat < p.length := by
    by_contra hlen
    simp [List.drop_eq_nil_of_le (not_lt.mp hlen)] at hw
  have hshort := (microProgram_shape hp).2
  have hstep : (s.microStep + 1).toNat = s.microStep.toNat + 1 := by
    rw [BitVec.toNat_add]; exact Nat.mod_eq_of_lt (by simp; omega)
  refine ⟨⟨ha.halted.trans hh, ha.hostStop.trans hs, p, ha.program.trans hp, ?_⟩, ?_, ha.halted.trans hh⟩
  · rw [ha.microStep, hstep, ← List.tail_drop, hw, List.tail_cons]
  · intro h0
    rw [← ha.microStep, h0] at hstep
    exact absurd hstep (Nat.succ_ne_zero _).symm

theorem InFrame.runsTo_cons (h : InFrame (w :: ws) s) (ht : tickWord w s = .next t)
    (hrest : InFrame ws t → RunsTo n t o) (ha : Advances s t := by exact ⟨rfl, rfl, rfl, rfl⟩) : RunsTo (n + 1) s o := by
  obtain ⟨hf, hm, hh⟩ := h.next ha
  exact .succ (h.tick_eq.trans ht) hm hh (hrest hf)

/-- The terminator after the last word of a micro-program ends the run. -/
theorem InFrame.runsTo_nil (h : InFrame [] s) : RunsTo 1 s (.next (endInstruction s)) :=
  .one (h.tick_eq.trans (tickWord_zero s h.hostStop))

/-- HT ends the run one step on. -/
theorem InFrame.runsTo_ht (h : InFrame [wordOf [.ht]] s) : RunsTo 1 s (.next (haltAtStep (s.microStep + 1) s)) :=
  .one (h.tick_eq.trans (by rw [wordOf_ht]; exact tickWord_ht s))

/-- The last word of a micro-program, then the terminator. -/
theorem InFrame.runsTo_single (h : InFrame [w] s) (ht : tickWord w s = .next t)
    (ha : Advances s t := by exact ⟨rfl, rfl, rfl, rfl⟩) (ho : o = .next (endInstruction t) := by rfl) : RunsTo 2 s o :=
  ho ▸ h.runsTo_cons ht InFrame.runsTo_nil ha

/-! ## The fetch -/

/-- The machine after the first tick of the fetch (R205). -/
def afterFetchAddress (s : State) : State := { s with mar := s.pc, cw := 0x000021, microStep := 1 }

/-- The machine after the two ticks of the fetch (R205). -/
def afterFetch (s : State) : State :=
  { s with ir := readByte s s.pc, pc := s.pc + 1, mar := s.pc, cw := 0x00008C, microStep := 2 }

theorem tick_fetchAddress (hr : ReadyToFetch s) : tick romRef s = .next (afterFetchAddress s) := by
  obtain ⟨hh, hs, hm⟩ := hr
  rw [tick_romRef s hh, microWord_of_fetch (by simp [hm])]
  simpa [hm, fetchPair, afterFetchAddress] using tickWord_co_mi s hs

theorem tick_fetchByte (hr : ReadyToFetch s) : tick romRef (afterFetchAddress s) = .next (afterFetch s) := by
  obtain ⟨hh, hs, -⟩ := hr
  rw [tick_romRef (afterFetchAddress s) hh, microWord_of_fetch (k := (afterFetchAddress s).microStep) Nat.one_lt_two]
  exact tickWord_ro_ii_ce _ hs

theorem runsTo_of_fetch (hr : ReadyToFetch s) (h : RunsTo n (afterFetch s) o) : RunsTo (n + 2) s o :=
  .succ (tick_fetchAddress hr) (show (1 : BitVec 3) ≠ 0 by decide) hr.1
    (.succ (tick_fetchByte hr) (show (2 : BitVec 3) ≠ 0 by decide) hr.1 h)

/-! ## The operand -/

theorem placedAtPc_first (h : PlacedAtPc i s) : readByte s s.pc = firstByte i := (List.cons.inj h).1

theorem placedAtPc_second {v : Byte} (h : PlacedAtPc i s) (hv : joinRest (fieldsOf i) = [v]) : readByte s (s.pc + 1) = v := by
  simpa [PlacedAtPc, encode, hv, bytesFrom] using (List.cons.inj h).2

/-- The machine with an instruction's first byte fetched, at the first word of its own (R205). -/
def afterOpcode (i : Instr) (s : State) : State := { takeNone i s with cw := 0x00008C, microStep := 2 }

theorem runsTo_afterOpcode (hr : ReadyToFetch s) (hp : PlacedAtPc i s)
    (hm : microProgram (firstByte i) s.cf s.zf s.sf = some (fetchPair ++ ws))
    (h : InFrame ws (afterOpcode i s) → RunsTo n (afterOpcode i s) o) : RunsTo (n + 2) s o := by
  have he : afterFetch s = afterOpcode i s := by simp only [afterFetch, placedAtPc_first hp]; rfl
  exact runsTo_of_fetch hr (he ▸ h ⟨hr.1, hr.2.1, _, hm, rfl⟩)

theorem microProgram_addressed {cls : Nibble} {addr : Word} (hf : fieldsOf i = .addressed cls addr) (hc : cls ≤ 0xD#4)
    (cf zf sf : Bool) : microProgram (firstByte i) cf zf sf = lookupNibble cls (addressedPrograms cf zf sf) := by
  have hF : cls ≠ 0xF#4 := by rintro rfl; exact absurd hc (by decide)
  have hE : cls ≠ 0xE#4 := by rintro rfl; exact absurd hc (by decide)
  simp [microProgram, firstByte, hf, joinFirst, hF, hE]

theorem microProgram_immediate {k : Nibble} {imm : Byte} (hf : fieldsOf i = .immediate k imm) (cf zf sf : Bool) :
    microProgram (firstByte i) cf zf sf = lookupNibble k immediatePrograms := by
  simp [microProgram, firstByte, hf, joinFirst]

/-- R95: the operand that IO drives once both bytes are read. -/
theorem addressOperand_firstByte {cls : Nibble} {addr : Word} (hf : fieldsOf i = .addressed cls addr) :
    addressOperand (firstByte i) (addr.extractLsb' 0 8) = addr := by
  simp [firstByte, hf, joinFirst]

theorem pc_add_one_add_one (pc : Word) : pc + 1 + 1 = pc + 2 := by
  rw [BitVec.add_assoc]; rfl

/-- The machine with the address of an operand byte in MAR (R206). -/
def afterOperandAddress (i : Instr) (s : State) : State :=
  { takeNone i s with mar := s.pc + 1, cw := 0x000021, microStep := 3 }

/-- The machine with both bytes of an addressed instruction read, at the word after them (R206). -/
def afterTarget (i : Instr) (target : Word) (s : State) : State :=
  { takeTarget i target s with cw := 0x040084, microStep := 4 }

/-- The machine with MAR at the operand address of an addressed instruction (R206). -/
def afterMemoryOperand (i : Instr) (addr : Word) (s : State) : State :=
  { takeMemoryOperand i addr s with cw := 0x000011, microStep := 5 }

section
variable {addr : Word} {cls : Nibble}

theorem runsTo_afterTarget (hr : ReadyToFetch s) (hp : PlacedAtPc i s) (hf : fieldsOf i = .addressed cls addr)
    (hc : cls ≤ 0xD#4) (hm : lookupNibble cls (addressedPrograms s.cf s.zf s.sf) = some (fetchPair ++ operandPair ++ ws))
    (h : InFrame ws (afterTarget i addr s) → RunsTo n (afterTarget i addr s) o) : RunsTo (n + 4) s o := by
  have hb : readByte s (s.pc + 1) = addr.extractLsb' 0 8 := placedAtPc_second hp (by simp [hf, joinRest])
  have second : tickWord 0x040084#24 (afterOperandAddress i s) = .next (afterTarget i addr s) := by
    rw [tickWord_ro_xi_ce (afterOperandAddress i s) hr.2.1, afterTarget, takeTarget, ← hb, ← pc_add_one_add_one]
    rfl
  refine runsTo_afterOpcode hr hp (ws := operandPair ++ ws) ?_ fun hw => ?_
  · rw [microProgram_addressed hf hc, hm, List.append_assoc]
  · exact hw.runsTo_cons (t := afterOperandAddress i s) (tickWord_co_mi _ hr.2.1) fun hw => hw.runsTo_cons second h

/-- R95: after both bytes, IO drives the operand. -/
theorem busOperand_afterTarget (hf : fieldsOf i = .addressed cls addr) : busOperand (afterTarget i addr s) = addr :=
  addressOperand_firstByte hf

theorem runsTo_afterMemoryOperand (hr : ReadyToFetch s) (hp : PlacedAtPc i s) (hf : fieldsOf i = .addressed cls addr)
    (hc : cls ≤ 0xD#4) (hm : lookupNibble cls (addressedPrograms s.cf s.zf s.sf) = some (toMemoryOperand ++ ws))
    (h : InFrame ws (afterMemoryOperand i addr s) → RunsTo n (afterMemoryOperand i addr s) o) : RunsTo (n + 5) s o := by
  have third : tickWord 0x000011#24 (afterTarget i addr s) = .next (afterMemoryOperand i addr s) := by
    rw [tickWord_io_mi (afterTarget i addr s) hr.2.1, busOperand_afterTarget hf]
    rfl
  exact runsTo_afterTarget hr hp hf hc (hm.trans rfl) fun hw => hw.runsTo_cons third h

/-- The last word of a jump, then the terminator (R218). -/
theorem InFrame.runsTo_jump (h : InFrame [wordOf [.io, .jp]] s) (hb : busOperand s = addr) :
    RunsTo 2 s (.next (endInstruction { s with pc := addr })) :=
  h.runsTo_single (tickWord_io_jp _ h.hostStop) (ho := by rw [hb]; rfl)

/-- A conditional branch under its flag: the jump or the single CE (R219). -/
theorem branchOn_runsTo {flag : Bool} (hr : ReadyToFetch s) (hp : PlacedAtPc i s) (hf : fieldsOf i = .addressed cls addr)
    (hc : cls ≤ 0xD#4) (hm : lookupNibble cls (addressedPrograms s.cf s.zf s.sf) = some (branchProgram flag)) :
    RunsTo (if flag then 6 else 4) s (branchOn flag i addr s) := by
  cases flag with
  | true => exact runsTo_afterTarget hr hp hf hc hm fun h => h.runsTo_jump (busOperand_afterTarget hf)
  | false =>
    exact runsTo_afterOpcode hr hp ((microProgram_addressed hf hc ..).trans hm) fun h =>
      h.runsTo_single (tickWord_ce _ h.hostStop) (ho := by simp only [branchOn, skipTarget, ← pc_add_one_add_one]; rfl)

/-! ## ALU words -/

theorem tickWord_alu (op : AluOp) (h : s.hostStop = false) :
    tickWord (wordOf [.ai] (aluOpCode op)) s = .next (aluToA op (withWord (wordOf [.ai] (aluOpCode op)) s)) :=
  tickWord_running (by cases op <;> decide) (by cases op <;> decide) h (by cases op <;> rfl)

/-- An ALU word at the end of a micro-program that does not depend on the flags, then the terminator. -/
theorem InFrame.runsTo_alu {op : AluOp} {p : Option (List ControlWord)} (h : InFrame [wordOf [.ai] (aluOpCode op)] s)
    (hm : ∀ cf zf sf, microProgram s.ir cf zf sf = p) : RunsTo 2 s (.next (endInstruction (aluToA op s))) :=
  h.runsTo_single (tickWord_alu op h.hostStop) ⟨rfl, rfl, rfl, (hm ..).trans (hm ..).symm⟩

theorem memoryToAlu_runsTo {op : AluOp} (hr : ReadyToFetch s) (hp : PlacedAtPc i s) (hf : fieldsOf i = .addressed cls addr)
    (hc : cls ≤ 0xD#4) (hm : ∀ cf zf sf, lookupNibble cls (addressedPrograms cf zf sf) = some (memoryAlu op)) :
    RunsTo 8 s (memoryToAlu op i addr s) :=
  runsTo_afterMemoryOperand hr hp hf hc (hm ..) fun h => h.runsTo_cons (tickWord_ro_bi _ h.hostStop) fun h =>
    h.runsTo_alu fun cf zf sf => (microProgram_addressed hf hc cf zf sf).trans (hm ..)

end

theorem registerAlu_runsTo {op : AluOp} (hr : ReadyToFetch s) (hp : PlacedAtPc i s)
    (hm : ∀ cf zf sf, microProgram (firstByte i) cf zf sf = some (fetchPair ++ [wordOf [.ai] (aluOpCode op)])) :
    RunsTo 4 s (registerAlu op i s) :=
  runsTo_afterOpcode hr hp (hm ..) fun h => h.runsTo_alu hm

/-! ## The immediate operand -/

/-- An immediate instruction up to the word that reads its operand byte: what is left is an effect of the byte on the machine
past it (R206, R290). -/
theorem runsTo_immediate {k : Nibble} {imm : Byte} (f : Byte → State → Host.Outcome State Fault Refusal) (hr : ReadyToFetch s)
    (hp : PlacedAtPc i s) (hf : fieldsOf i = .immediate k imm)
    (hm : lookupNibble k immediatePrograms = some (fetchPair ++ wordOf [.co, .mi] :: ws))
    (h : InFrame ws (afterOperandAddress i s) → RunsTo n (afterOperandAddress i s)
      (f (readByte s (s.pc + 1)) { takeNone i s with pc := s.pc + 1 + 1, mar := s.pc + 1 })) :
    RunsTo (n + 3) s (f imm (takeImmediate i s)) := by
  rw [placedAtPc_second hp (by rw [hf]; rfl), pc_add_one_add_one] at h
  exact runsTo_afterOpcode hr hp ((microProgram_immediate hf ..).trans hm) fun hw =>
    hw.runsTo_cons (tickWord_co_mi _ hw.hostStop) h

theorem immediateToAlu_runsTo {op : AluOp} {k : Nibble} {imm : Byte} (hr : ReadyToFetch s) (hp : PlacedAtPc i s)
    (hf : fieldsOf i = .immediate k imm)
    (hm : lookupNibble k immediatePrograms = some (immediateTo .bi ++ [wordOf [.ai] (aluOpCode op)])) :
    RunsTo 6 s (immediateToAlu op i imm s) :=
  runsTo_immediate (fun v u => .next (endInstruction (aluToA op { u with b := v }))) hr hp hf hm fun h =>
    h.runsTo_cons (tickWord_ro_bi_ce _ h.hostStop) fun h => h.runsTo_alu (microProgram_immediate hf)

/-! ## Every instruction -/

/-- How many ticks an instruction takes (R389). -/
def tickCount (s : State) : Instr → Nat
  | .add _ | .sub _ | .and _ | .or _ | .mull _ | .mulh _ => 8
  | .lda _ | .sta _ | .jsr _ => 7
  | .jmp _ | .addImm _ | .subImm _ => 6
  | .jmpc _ => if s.cf then 6 else 4
  | .jmpz _ => if s.zf then 6 else 4
  | .jmpn _ => if s.sf then 6 else 4
  | .ldi _ | .ldib _ | .pushImm _ | .haltImm _ | .setp _ => 5
  | .halt => 3
  | _ => 4

/-- No frame has more than eight micro-steps (R163, R201). -/
theorem tickCount_le (s : State) (i : Instr) : tickCount s i ≤ 8 := by
  cases i with
  | jmpc | jmpz | jmpn => show (if _ = true then 6 else 4) ≤ 8; split <;> decide
  | _ => exact Nat.le_of_ble_eq_true rfl

/-- Each micro-program, run word by word, has the effect of its instruction's meaning. -/
theorem exec_runsTo (hr : ReadyToFetch s) (hp : PlacedAtPc i s) : RunsTo (tickCount s i) s (exec i s) := by
  cases i with
  | lda addr =>
    exact runsTo_afterMemoryOperand hr hp rfl (by decide) rfl fun h => h.runsTo_single (tickWord_ro_ai _ h.hostStop)
  | sta addr =>
    exact runsTo_afterMemoryOperand hr hp rfl (by decide) rfl fun h => h.runsTo_single (tickWord_ao_ri _ h.hostStop)
  | add addr => exact memoryToAlu_runsTo hr hp rfl (by decide) fun _ _ _ => rfl
  | sub addr => exact memoryToAlu_runsTo hr hp rfl (by decide) fun _ _ _ => rfl
  | and addr => exact memoryToAlu_runsTo hr hp rfl (by decide) fun _ _ _ => rfl
  | or addr => exact memoryToAlu_runsTo hr hp rfl (by decide) fun _ _ _ => rfl
  | mull addr => exact memoryToAlu_runsTo hr hp rfl (by decide) fun _ _ _ => rfl
  | mulh addr => exact memoryToAlu_runsTo hr hp rfl (by decide) fun _ _ _ => rfl
  | jmp target => exact runsTo_afterTarget hr hp rfl (by decide) rfl fun h => h.runsTo_jump (busOperand_afterTarget rfl)
  | jmpc target => exact branchOn_runsTo hr hp rfl (by decide) rfl
  | jmpz target => exact branchOn_runsTo hr hp rfl (by decide) rfl
  | jmpn target => exact branchOn_runsTo hr hp rfl (by decide) rfl
  | jsr target =>
    exact runsTo_afterTarget hr hp rfl (by decide) rfl fun h => h.runsTo_cons (tickWord_co_si_sa _ h.hostStop) fun h =>
      h.runsTo_jump (busOperand_afterTarget (s := s) (i := .jsr target) rfl)
  | ldi imm =>
    exact runsTo_immediate (fun v u => .next (endInstruction { u with a := v })) hr hp rfl rfl fun h =>
      h.runsTo_single (tickWord_ro_ai_ce _ h.hostStop)
  | ldib imm =>
    exact runsTo_immediate (fun v u => .next (endInstruction { u with b := v })) hr hp rfl rfl fun h =>
      h.runsTo_single (tickWord_ro_bi_ce _ h.hostStop)
  | addImm imm => exact immediateToAlu_runsTo hr hp rfl rfl
  | subImm imm => exact immediateToAlu_runsTo hr hp rfl rfl
  | pushImm imm =>
    exact runsTo_immediate (fun v u => .next (endInstruction (pushByte v u))) hr hp rfl rfl fun h =>
      h.runsTo_single (tickWord_ro_si_ce _ h.hostStop)
  | haltImm imm =>
    exact runsTo_immediate (fun v u => .next (haltAtStep 5 (writeOut v u))) hr hp rfl rfl fun h =>
      h.runsTo_cons (tickWord_ro_oi_ce _ h.hostStop) InFrame.runsTo_ht
  | setp imm =>
    exact runsTo_immediate (fun v u => .next (endInstruction (emitPointer v u))) hr hp rfl rfl fun h =>
      h.runsTo_single (tickWord_ro_pi_ce _ h.hostStop)
  | out => exact runsTo_afterOpcode hr hp rfl fun h => h.runsTo_single (tickWord_ao_oi _ h.hostStop)
  | inc => exact registerAlu_runsTo hr hp fun _ _ _ => rfl
  | not => exact registerAlu_runsTo hr hp fun _ _ _ => rfl
  | rsh => exact registerAlu_runsTo hr hp fun _ _ _ => rfl
  | lsh => exact registerAlu_runsTo hr hp fun _ _ _ => rfl
  | take => exact runsTo_afterOpcode hr hp rfl fun h => h.runsTo_single (tickWord_bo_ai _ h.hostStop)
  | move => exact runsTo_afterOpcode hr hp rfl fun h => h.runsTo_single (tickWord_ao_bi _ h.hostStop)
  | pusha => exact runsTo_afterOpcode hr hp rfl fun h => h.runsTo_single (tickWord_ao_si _ h.hostStop)
  | popa => exact runsTo_afterOpcode hr hp rfl fun h => h.runsTo_single (tickWord_so_ai _ h.hostStop)
  | ret => exact runsTo_afterOpcode hr hp rfl fun h => h.runsTo_single (tickWord_so_sa_jp _ h.hostStop)
  | halta =>
    exact runsTo_afterOpcode hr hp rfl fun h => h.runsTo_cons (tickWord_ao_oi _ h.hostStop) InFrame.runsTo_ht
  | refresh => exact runsTo_afterOpcode hr hp rfl fun h => h.runsTo_single (tickWord_rf _ h.hostStop)
  | halt => exact runsTo_afterOpcode hr hp rfl InFrame.runsTo_ht
  | multl => exact registerAlu_runsTo hr hp fun _ _ _ => rfl

/-- R389, in the terms of the statements about instructions. -/
theorem exec_runsInTicks (hr : ReadyToFetch s) (hp : PlacedAtPc i s) : RunsInTicks (tickCount s i) i s :=
  ⟨(exec_runsTo hr hp).ticks_eq, (exec_runsTo hr hp).before⟩

/-- Every meaning ends its instruction by the terminator or by HT (R162, R164). -/
theorem exec_ends (i : Instr) (s : State) :
    (∃ u, exec i s = .next (endInstruction u)) ∨ ∃ k u, exec i s = .next (haltAtStep k u) := by
  cases i with
  | haltImm | halta | halt => exact .inr ⟨_, _, rfl⟩
  | _ => exact .inl ⟨_, rfl⟩

/-- The ticks up to the boundary run the instruction at PC (R183). -/
theorem exec_toBoundary (hr : ReadyToFetch s) (hp : PlacedAtPc i s) : toBoundary romRef 8 s = exec i s := by
  refine (exec_runsTo hr hp).toBoundary_eq (fun t ht => ?_) (tickCount_le s i)
  obtain ⟨u, hu⟩ | ⟨k, u, hu⟩ := exec_ends i s
  · obtain rfl : endInstruction u = t := by simpa [hu] using ht
    exact .inr rfl
  · obtain rfl : haltAtStep k u = t := by simpa [hu] using ht
    exact .inl rfl

/-! ## What stands at PC -/

theorem instrOfFields_fieldsOf {f : Fields} (h : instrOfFields f = some i) : fieldsOf i = f := by
  cases f with
  | addressed cls addr =>
    obtain ⟨g, hg, rfl⟩ := Option.map_eq_some_iff.mp h
    have rows : ∀ row ∈ addressedMap, fieldsOf (row.2 addr) = .addressed row.1 addr := by simp [addressedMap, fieldsOf]
    exact rows _ (lookupNibble_mem hg)
  | immediate n imm =>
    obtain ⟨g, hg, rfl⟩ := Option.map_eq_some_iff.mp h
    have rows : ∀ row ∈ immediateMap, fieldsOf (row.2 imm) = .immediate row.1 imm := by simp [immediateMap, fieldsOf]
    exact rows _ (lookupNibble_mem hg)
  | nullary n =>
    have rows : ∀ row ∈ nullaryMap, fieldsOf row.2 = .nullary row.1 := by simp [nullaryMap, fieldsOf]
    exact rows _ (lookupNibble_mem h)

theorem joinFirst_splitFields (b0 b1 : Byte) : joinFirst (splitFields b0 b1) = b0 := by
  unfold splitFields
  split
  case isTrue h => rw [joinFirst, ← h, nibbles_append]
  case isFalse =>
    split
    case isTrue h => rw [joinFirst, ← h, nibbles_append]
    case isFalse => simpa [joinFirst] using nibbles_append b0

theorem joinRest_splitFields (b0 b1 : Byte) : joinRest (splitFields b0 b1) = [] ∨ joinRest (splitFields b0 b1) = [b1] := by
  unfold splitFields
  split
  · exact .inl rfl
  · split <;> simp [joinRest]

/-- What the step fetches stands at PC. -/
theorem placedAtPc_of_fetched (h : fetched s = some i) : PlacedAtPc i s := by
  have hf := instrOfFields_fieldsOf h
  have h0 : firstByte i = readByte s s.pc := by rw [firstByte, hf, joinFirst_splitFields]
  obtain hj | hj := hf ▸ joinRest_splitFields (readByte s s.pc) (readByte s (s.pc + 1)) <;>
    simp [PlacedAtPc, encode, hj, h0, bytesFrom]

/-! ## A reserved byte -/

theorem lookupNibble_eq_none {α : Type} {n : Nibble} {m : List (Nibble × α)} :
    lookupNibble n m = none ↔ n ∉ m.map Prod.fst := by
  induction m with
  | nil => simp [lookupNibble]
  | cons row rest ih =>
    obtain ⟨k, v⟩ := row
    by_cases hk : n = k <;> simp [lookupNibble, hk, ih]

/-- Whether a lookup answers depends on the nibbles of the map only. -/
theorem lookupNibble_none_congr {α β : Type} {n : Nibble} {m : List (Nibble × α)} {m' : List (Nibble × β)}
    (h : lookupNibble n m = none) (hk : m.map Prod.fst = m'.map Prod.fst) : lookupNibble n m' = none :=
  lookupNibble_eq_none.mpr (hk ▸ lookupNibble_eq_none.mp h)

/-- A first byte without an instruction has no micro-program: the maps of both have the same nibbles (R100, R244). -/
theorem microProgram_of_undecodable {b0 b1 : Byte} (h : decodePair b0 b1 = none) (cf zf sf : Bool) :
    microProgram b0 cf zf sf = none := by
  rw [decodePair, splitFields] at h
  rw [microProgram]
  by_cases hF : highNibble b0 = 0xF#4
  · simp only [if_pos hF, instrOfFields] at h ⊢
    exact lookupNibble_none_congr h rfl
  · by_cases hE : highNibble b0 = 0xE#4
    · simp only [if_neg hF, if_pos hE, instrOfFields, Option.map_eq_none_iff] at h ⊢
      exact lookupNibble_none_congr h rfl
    · simp only [if_neg hF, if_neg hE, instrOfFields, Option.map_eq_none_iff] at h ⊢
      exact lookupNibble_none_congr h rfl

/-- R244: the tick after the fetch of a reserved byte refuses it. -/
theorem reserved_runsTo (hr : ReadyToFetch s) (h : fetched s = none) :
    RunsTo 3 s (.refused (.reservedOpcode (readByte s s.pc))) := by
  refine runsTo_of_fetch hr (.one ?_)
  have hm : microProgram (afterFetch s).ir (afterFetch s).cf (afterFetch s).zf (afterFetch s).sf = none :=
    microProgram_of_undecodable h ..
  rw [tick_romRef (afterFetch s) hr.1, microWord, hm]
  rfl

/-- Settles O6: at a boundary by the run of the instruction at PC or of the reserved byte there; the other states are the
step's own definition. -/
theorem stepIsTicksToTheBoundary : Obligations.StepIsTicksToTheBoundary := by
  intro s
  rw [step]
  split
  case isTrue hh => rw [toBoundary, tick, if_pos hh]
  case isFalse hh =>
    split
    case isTrue => rfl
    case isFalse hb =>
      have hr : ReadyToFetch s := by simpa [ReadyToFetch, hh] using hb
      cases hi : fetched s with
      | some i => exact (exec_toBoundary hr (placedAtPc_of_fetched hi)).symm
      | none => exact ((reserved_runsTo hr hi).toBoundary_eq (by simp) (by omega)).symm

end Sys2Proof.Machine
end

section
/-! What the instructions can do to each part of the state, and what they leave (spec/10_state.md R20 to R35), with the invariant
of the step and the statements about the state that follow. -/

namespace Sys2Proof.Machine

variable {i : Instr} {s t : State}

/-! ## The branches -/

/-- A branch ends like a jump or past its operand, whatever flag it tests (R271). -/
theorem branchOn_cases {flag : Bool} {target : Word} (h : branchOn flag i target s = .next t) :
    t = endInstruction (jumpTo i target s) ∨ t = endInstruction (skipTarget i s) := by
  cases flag with
  | true => exact .inl (Host.Outcome.next.inj h).symm
  | false => exact .inr (Host.Outcome.next.inj h).symm

/-! ## RAM (R35, R63) -/

theorem exec_ram_frame (h : exec i s = .next t) (hn : ∀ addr, i ≠ .sta addr) : t.ram = s.ram := by
  cases i with
  | sta addr => exact absurd rfl (hn addr)
  | jmpc | jmpz | jmpn => obtain rfl | rfl := branchOn_cases h <;> rfl
  | _ => cases h; rfl

theorem exec_keeps_wf (h : exec i s = .next t) (hw : Memory.wf s.ram = true) : Memory.wf t.ram = true := by
  by_cases hi : ∃ addr, i = .sta addr
  · obtain ⟨addr, rfl⟩ := hi
    cases h
    exact writeByte_wf addr s.a hw
  · rwa [exec_ram_frame h (not_exists.mp hi)]

/-! ## OUT and its trace (R25, D32) -/

/-- The instructions with a word that asserts OI. -/
abbrev WritesOut (i : Instr) : Prop := i = .out ∨ i = .halta ∨ ∃ v, i = .haltImm v

theorem exec_out_frame (h : exec i s = .next t) (hn : ¬ WritesOut i) : t.out = s.out ∧ t.outTrace = s.outTrace := by
  cases i with
  | out | halta | haltImm => simp at hn
  | jmpc | jmpz | jmpn => obtain rfl | rfl := branchOn_cases h <;> exact ⟨rfl, rfl⟩
  | _ => cases h; exact ⟨rfl, rfl⟩

theorem exec_outTrace_of_writesOut (h : exec i s = .next t) (hw : WritesOut i) : t.outTrace = t.out :: s.outTrace := by
  obtain rfl | rfl | ⟨v, rfl⟩ := hw <;> cases h <;> rfl

/-! ## The screen's side (R352 to R354) -/

/-- The instructions with a word that asserts PI or RF. -/
abbrev WritesScreen (i : Instr) : Prop := i = .refresh ∨ ∃ v, i = .setp v

theorem exec_screen_frame (h : exec i s = .next t) (hn : ¬ WritesScreen i) :
    t.screenPtr = s.screenPtr ∧ t.screenEvents = s.screenEvents := by
  cases i with
  | refresh | setp => simp at hn
  | jmpc | jmpz | jmpn => obtain rfl | rfl := branchOn_cases h <;> exact ⟨rfl, rfl⟩
  | _ => cases h; exact ⟨rfl, rfl⟩

theorem exec_tracesAgree (h : exec i s = .next t) (hs : TracesAgree s) : TracesAgree t := by
  obtain ⟨hout, hscreen⟩ := hs
  constructor
  · by_cases hw : WritesOut i
    · rw [exec_outTrace_of_writesOut h hw]
      exact fun v hv => Option.some.inj hv
    · obtain ⟨ho, htr⟩ := exec_out_frame h hw
      rwa [ho, htr]
  · by_cases hw : WritesScreen i
    · obtain rfl | ⟨v, rfl⟩ := hw
      · cases h; exact hscreen
      · cases h; exact fun w hv => Option.some.inj hv
    · obtain ⟨hp, he⟩ := exec_screen_frame h hw
      rwa [hp, he]

/-! ## HALTED and the host's line (R38, R164) -/

/-- The instructions with the word HT. -/
abbrev Halts (i : Instr) : Prop := i = .halt ∨ i = .halta ∨ ∃ v, i = .haltImm v

theorem exec_halted_of_halts (h : exec i s = .next t) (hi : Halts i) : t.halted = true := by
  obtain rfl | rfl | ⟨v, rfl⟩ := hi <;> cases h <;> rfl

theorem exec_halted_frame (h : exec i s = .next t) (hn : ¬ Halts i) : t.halted = s.halted := by
  cases i with
  | halt | halta | haltImm => simp at hn
  | jmpc | jmpz | jmpn => obtain rfl | rfl := branchOn_cases h <;> rfl
  | _ => cases h; rfl

theorem exec_hostStop (h : exec i s = .next t) : t.hostStop = s.hostStop := by
  cases i with
  | jmpc | jmpz | jmpn => obtain rfl | rfl := branchOn_cases h <;> rfl
  | _ => cases h; rfl

/-- Settles O40: OUT and the screen's side by their frames; a running machine halts by the instructions with HT. -/
theorem outputsChangeOnlyByTheirWriters : Obligations.OutputsChangeOnlyByTheirWriters := by
  intro i s t h
  refine ⟨fun hne => not_imp_comm.mp (exec_out_frame h) (not_and_or.mpr hne),
    fun hne => not_imp_comm.mp (exec_screen_frame h) (not_and_or.mpr hne),
    fun hs => ⟨fun ht => ?_, exec_halted_of_halts h⟩, exec_hostStop h⟩
  exact not_imp_comm.mp (exec_halted_frame h) (by simp [hs, ht])

/-- After an instruction the machine is at a boundary with its lines clear, or it has halted (R162, R164). -/
theorem exec_atRest (h : exec i s = .next t) : AtRest t := by
  obtain ⟨u, hu⟩ | ⟨k, u, hu⟩ := exec_ends i s
  · obtain rfl := Host.Outcome.next.inj (hu.symm.trans h)
    exact .inr ⟨rfl, rfl⟩
  · obtain rfl := Host.Outcome.next.inj (hu.symm.trans h)
    exact .inl rfl

/-! ## The step at a boundary -/

theorem step_of_halted (h : s.halted = true) : step s = .fault .halted := by simp [step, h]

/-- At a boundary the host's line ends the run in the first tick of the fetch, before its datapath (R164). -/
theorem step_of_hostStop (hh : s.halted = false) (hs : s.hostStop = true) (hm : s.microStep = 0) :
    step s = .next { withWord 0x000021 s with halted := true } := by
  have hw : microWord s.microStep s.ir s.cf s.zf s.sf = some 0x000021#24 := by
    rw [hm]
    exact microWord_of_fetch (by decide) ..
  have ha : admitted 0x000021#24 = true := by decide
  have ht : tick romRef s = .next { withWord 0x000021 s with halted := true } := by
    simp [tick_romRef s hh, hw, tickWord, ha, hs, controlStep]
  simp [step, hh, hs, finishInstruction, toBoundary, ht]

theorem step_of_fetched (hr : ReadyToFetch s) (hi : fetched s = some i) : step s = exec i s := by
  obtain ⟨hh, hs, hm⟩ := hr
  simp [step, hh, hs, hm, hi]

theorem step_of_reserved (hr : ReadyToFetch s) (hi : fetched s = none) :
    step s = .refused (.reservedOpcode (readByte s s.pc)) := by
  obtain ⟨hh, hs, hm⟩ := hr
  simp [step, hh, hs, hm, hi]

/-! ## The invariant -/

theorem exec_stateInv (h : exec i s = .next t) (hs : StateInv s) : StateInv t :=
  ⟨exec_keeps_wf h hs.ram, exec_atRest h, exec_tracesAgree h hs.traces⟩

/-- Settles O10: a machine at rest that runs is at a boundary, so its step is the host's stop or an instruction. -/
theorem stepKeepsTheInvariant : Obligations.StepKeepsTheInvariant := by
  intro s t hs h
  cases hh : s.halted with
  | true => simp [step_of_halted hh] at h
  | false =>
    obtain ⟨hm, -⟩ : s.microStep = 0 ∧ s.cw = 0 := hs.rest.resolve_left (by simp [hh])
    cases hl : s.hostStop with
    | true =>
      rw [step_of_hostStop hh hl hm] at h
      cases h
      exact ⟨hs.ram, .inl rfl, hs.traces⟩
    | false =>
      cases hi : fetched s with
      | some i => exact exec_stateInv ((step_of_fetched ⟨hh, hl, hm⟩ hi).symm.trans h) hs
      | none => simp [step_of_reserved ⟨hh, hl, hm⟩ hi] at h

/-- Settles O9: HALTED is the first check of the tick and of the step. -/
theorem haltedMachineTakesNoTick : Obligations.HaltedMachineTakesNoTick :=
  fun _ _ h => ⟨tick_of_halted h, step_of_halted h⟩

/-! ## Reset (R42, R370) -/

theorem boot_stateInv (init : Init) (image : List Byte) : StateInv (State.boot init image) :=
  ⟨Memory.wf_ofBytes image 0, .inr ⟨rfl, rfl⟩, nofun, nofun⟩

/-- Settles O11: State.reset is the reset with the zero INIT and the empty image. -/
theorem resetStatesMeetTheInvariant : Obligations.ResetStatesMeetTheInvariant :=
  ⟨boot_stateInv, boot_stateInv Init.zero []⟩

theorem Memory.read_of_above {m : Memory} {x : Nat} (h : Memory.above x m = true) : Memory.read m x = 0 := by
  induction m with
  | nil => rfl
  | cons c rest ih =>
    have hlt := (Memory.above_iff x _).mp h
    have hrest : Memory.above x rest = true := (Memory.above_iff x rest).mpr fun d hd => hlt d (List.mem_cons_of_mem c hd)
    rw [Memory.read_cons, if_neg (hlt c List.mem_cons_self).ne, ih hrest]

/-- The byte an image has at an address is read there, whether or not a cell is listed for it. -/
theorem Memory.read_ofBytes_cons {x : Nat} (hx : x < 4096) (v : Byte) (rest : List Byte) (y : Nat) :
    Memory.read (Memory.ofBytes x (v :: rest)) y = if y = x then v else Memory.read (Memory.ofBytes (x + 1) rest) y := by
  rw [Memory.ofBytes, if_pos hx]
  split
  case isTrue hv =>
    split
    case isTrue hy => rw [hy, hv, Memory.read_of_above (Memory.above_ofBytes rest x (x + 1) (Nat.lt_succ_self x))]
    case isFalse => rfl
  case isFalse => exact Memory.read_cons x v _ y

/-- An image laid out from an address on reads as its bytes there, and as 0 past them. -/
theorem Memory.read_ofBytes (bytes : List Byte) {x y : Nat} (hy : y < 4096) (hxy : x ≤ y) :
    Memory.read (Memory.ofBytes x bytes) y = bytes.getD (y - x) 0 := by
  induction bytes generalizing x with
  | nil => rfl
  | cons v rest ih =>
    rw [Memory.read_ofBytes_cons (by omega)]
    split
    case isTrue h => simp [h]
    case isFalse h =>
      rw [ih (by omega), show y - x = y - (x + 1) + 1 by omega, List.getD_cons_succ]

/-- Settles O12: RAM reads as the image from address 0; the registers are the fields of State.boot. -/
theorem resetLeavesTheStatedValues : Obligations.ResetLeavesTheStatedValues := by
  intro init image
  exact ⟨rfl, rfl, rfl, rfl, rfl, fun x => Memory.read_ofBytes image x.isLt (Nat.zero_le _),
    rfl, rfl, rfl, rfl, rfl, rfl, rfl, rfl, rfl, rfl⟩

/-! ## The hidden registers (R40) -/

theorem branchOn_forgetHidden (flag : Bool) (i : Instr) (target : Word) (s : State) :
    mapNext forgetHidden (branchOn flag i target s) = mapNext forgetHidden (branchOn flag i target (forgetHidden s)) := by
  cases flag <;> rfl

/-- No meaning reads IR, IR2, MAR or CW. -/
theorem exec_forgetHidden (i : Instr) (s : State) :
    mapNext forgetHidden (exec i s) = mapNext forgetHidden (exec i (forgetHidden s)) := by
  cases i with
  | jmpc | jmpz | jmpn => exact branchOn_forgetHidden ..
  | _ => rfl

/-- Nor does a step from a boundary. -/
theorem step_forgetHidden (hm : s.microStep = 0) :
    mapNext forgetHidden (step s) = mapNext forgetHidden (step (forgetHidden s)) := by
  cases hh : s.halted with
  | true => rw [step_of_halted hh, step_of_halted (s := forgetHidden s) hh]
  | false =>
    cases hl : s.hostStop with
    | true =>
      rw [step_of_hostStop hh hl hm, step_of_hostStop (s := forgetHidden s) hh hl hm]
      rfl
    | false =>
      have hr : ReadyToFetch s := ⟨hh, hl, hm⟩
      cases hi : fetched s with
      | some i =>
        rw [step_of_fetched hr hi, step_of_fetched (s := forgetHidden s) hr hi]
        exact exec_forgetHidden i s
      | none =>
        rw [step_of_reserved hr hi, step_of_reserved (s := forgetHidden s) hr hi]
        rfl

/-- Settles O13: both steps are, but for the hidden registers, the step of the state with those blanked. -/
theorem hiddenRegistersDoNotMatter : Obligations.HiddenRegistersDoNotMatter := by
  intro s t h hm
  have hmt : t.microStep = 0 := (congrArg State.microStep h).symm.trans hm
  rw [step_forgetHidden hm, step_forgetHidden hmt, h]

/-! ## The flags (R28, D6) -/

/-- The instructions with an ALU word. -/
abbrev WritesFlags (i : Instr) : Prop :=
  (∃ m, i = .add m ∨ i = .sub m ∨ i = .and m ∨ i = .or m ∨ i = .mull m ∨ i = .mulh m)
  ∨ (∃ v, i = .addImm v ∨ i = .subImm v) ∨ i = .inc ∨ i = .not ∨ i = .rsh ∨ i = .lsh ∨ i = .multl

/-- Those of them whose operation writes a carry. -/
abbrev WritesCarry (i : Instr) : Prop :=
  (∃ m, i = .add m ∨ i = .sub m ∨ i = .mull m) ∨ (∃ v, i = .addImm v ∨ i = .subImm v)
  ∨ i = .inc ∨ i = .lsh ∨ i = .multl

theorem exec_zf_sf_frame (h : exec i s = .next t) (hn : ¬ WritesFlags i) : t.zf = s.zf ∧ t.sf = s.sf := by
  cases i with
  | add | sub | and | or | mull | mulh | addImm | subImm | inc | not | rsh | lsh | multl => simp at hn
  | jmpc | jmpz | jmpn => obtain rfl | rfl := branchOn_cases h <;> exact ⟨rfl, rfl⟩
  | _ => cases h; exact ⟨rfl, rfl⟩

theorem exec_cf_frame (h : exec i s = .next t) (hn : ¬ WritesCarry i) : t.cf = s.cf := by
  cases i with
  | add | sub | mull | addImm | subImm | inc | lsh | multl => simp at hn
  | jmpc | jmpz | jmpn => obtain rfl | rfl := branchOn_cases h <;> rfl
  | _ => cases h; rfl

/-- Settles O37: an instruction without an ALU word keeps ZF and SF, one whose operation writes no carry keeps CF. -/
theorem flagsChangeOnlyByAluInstructions : Obligations.FlagsChangeOnlyByAluInstructions :=
  fun _ _ _ h => ⟨fun hne => not_imp_comm.mp (exec_zf_sf_frame h) (not_and_or.mpr hne), not_imp_comm.mp (exec_cf_frame h)⟩

/-! ## A, B and IR2 (R21, R22, R24) -/

/-- The instructions with a word that asserts AI. -/
abbrev WritesA (i : Instr) : Prop :=
  (∃ m, i = .lda m ∨ i = .add m ∨ i = .sub m ∨ i = .and m ∨ i = .or m ∨ i = .mull m ∨ i = .mulh m)
  ∨ (∃ v, i = .ldi v ∨ i = .addImm v ∨ i = .subImm v)
  ∨ i = .inc ∨ i = .not ∨ i = .rsh ∨ i = .lsh ∨ i = .take ∨ i = .popa ∨ i = .multl

/-- The instructions with a word that asserts BI. -/
abbrev WritesB (i : Instr) : Prop :=
  (∃ m, i = .add m ∨ i = .sub m ∨ i = .and m ∨ i = .or m ∨ i = .mull m ∨ i = .mulh m)
  ∨ (∃ v, i = .ldib v ∨ i = .addImm v ∨ i = .subImm v) ∨ i = .move

theorem exec_a_frame (h : exec i s = .next t) (hn : ¬ WritesA i) : t.a = s.a := by
  cases i with
  | lda | add | sub | and | or | mull | mulh | ldi | addImm | subImm | inc | not | rsh | lsh | take | popa | multl =>
    simp at hn
  | jmpc | jmpz | jmpn => obtain rfl | rfl := branchOn_cases h <;> rfl
  | _ => cases h; rfl

theorem exec_b_frame (h : exec i s = .next t) (hn : ¬ WritesB i) : t.b = s.b := by
  cases i with
  | add | sub | and | or | mull | mulh | ldib | addImm | subImm | move => simp at hn
  | jmpc | jmpz | jmpn => obtain rfl | rfl := branchOn_cases h <;> rfl
  | _ => cases h; rfl

/-- Only the formats with an address operand fill IR2 (R24, R206). -/
theorem exec_ir2_frame (h : exec i s = .next t) (hn : ¬ highNibble (firstByte i) < 0xE#4) : t.ir2 = s.ir2 := by
  cases i with
  | lda | add | sub | sta | jmp | jmpc | jmpz | jmpn | jsr | and | or | mull | mulh =>
    simp [firstByte, fieldsOf, joinFirst] at hn
  | _ => cases h; rfl

/-- Settles O38: an instruction outside each list keeps the register. -/
theorem dataRegistersChangeOnlyByTheirWriters : Obligations.DataRegistersChangeOnlyByTheirWriters :=
  fun _ _ _ h =>
    ⟨not_imp_comm.mp (exec_a_frame h), not_imp_comm.mp (exec_b_frame h), not_imp_comm.mp (exec_ir2_frame h)⟩

/-! ## The call stack (R31, R32) -/

/-- The instructions with a word that asserts SI. -/
abbrev Pushes (i : Instr) : Prop := (∃ m, i = .jsr m) ∨ (∃ v, i = .pushImm v) ∨ i = .pusha

/-- The instructions with a word that asserts SO. -/
abbrev Pops (i : Instr) : Prop := i = .ret ∨ i = .popa

theorem exec_stack_of_pushes (h : exec i s = .next t) (hi : Pushes i) :
    t.sp = s.sp + 1 ∧ ∃ v, t.stk = s.stk.set s.sp.toNat v s.sp.isLt := by
  obtain ⟨m, rfl⟩ | ⟨v, rfl⟩ | rfl := hi <;> cases h <;> exact ⟨rfl, _, rfl⟩

theorem exec_stack_of_pops (h : exec i s = .next t) (hi : Pops i) : t.sp = s.sp - 1 ∧ t.stk = s.stk := by
  obtain rfl | rfl := hi <;> cases h <;> exact ⟨rfl, rfl⟩

theorem exec_stack_frame (h : exec i s = .next t) (hpush : ¬ Pushes i) (hpop : ¬ Pops i) :
    t.sp = s.sp ∧ t.stk = s.stk := by
  cases i with
  | jsr | pushImm | pusha => simp at hpush
  | ret | popa => simp at hpop
  | jmpc | jmpz | jmpn => obtain rfl | rfl := branchOn_cases h <;> exact ⟨rfl, rfl⟩
  | _ => cases h; exact ⟨rfl, rfl⟩

theorem exec_stk_of_not_pushes (h : exec i s = .next t) (hpush : ¬ Pushes i) : t.stk = s.stk := by
  by_cases hpop : Pops i
  · exact (exec_stack_of_pops h hpop).2
  · exact (exec_stack_frame h hpush hpop).2

/-- Settles O39: SP by the three kinds of instruction, a cell by whether a push names it. -/
theorem stackChangesOnlyByPushesAndPops : Obligations.StackChangesOnlyByPushesAndPops := by
  intro i s t h
  refine ⟨fun hi => (exec_stack_of_pushes h hi).1, fun hi => (exec_stack_of_pops h hi).1,
    fun hpush hpop => (exec_stack_frame h hpush hpop).1, fun k hk => ?_⟩
  by_cases hpush : Pushes i
  · obtain ⟨-, v, hstk⟩ := exec_stack_of_pushes h hpush
    have hne : s.sp.toNat ≠ k.toNat := fun he => hk.resolve_left (not_not.mpr hpush) (BitVec.eq_of_toNat_eq he.symm)
    simp only [hstk, Vector.getElem_set_ne _ _ hne]
  · simp only [exec_stk_of_not_pushes h hpush]

end Sys2Proof.Machine
end

section
/-! Decoding undoes encoding (spec/20_memory.md R65, spec/30_encoding.md R91 to R94, R102): first on the fields of each of the
three formats, then on instructions. -/

namespace Sys2Proof

variable {f : Fields}

theorem fieldsOf_wellFormed (i : Instr) : (fieldsOf i).wellFormed = true := by cases i <;> rfl

/-- The row of its opcode map that an instruction's fields select is the instruction's own (R97 to R99). -/
theorem instrOfFields_of_fieldsOf (i : Instr) : instrOfFields (fieldsOf i) = some i := by cases i <;> rfl

/-- The addressed classes are disjoint from the immediate class 0xE and the nullary class 0xF (R90). -/
theorem Fields.wellFormed_addressed_ne {cls : Nibble} {addr : Word} (hf : (Fields.addressed cls addr).wellFormed = true) :
    cls ≠ 0xF#4 ∧ cls ≠ 0xE#4 := by
  constructor <;> rintro rfl <;> simp [Fields.wellFormed] at hf

/-- Fields are what their bytes are cut into, whatever follows those bytes (R91 to R93). -/
theorem splitFields_join (hf : f.wellFormed = true) (rest : List Byte) :
    splitFields (joinFirst f) ((joinRest f ++ rest).headD 0) = f := by
  cases f with
  | addressed cls addr =>
    obtain ⟨hF, hE⟩ := Fields.wellFormed_addressed_ne hf
    simp [splitFields, joinFirst, joinRest, hF, hE]
  | immediate n imm => simp [splitFields, joinFirst, joinRest]
  | nullary n => simp [splitFields, joinFirst]

/-- R94: the first byte alone tells how many bytes the fields are written as. -/
theorem lengthOfByte_joinFirst (hf : f.wellFormed = true) : lengthOfByte (joinFirst f) = (joinRest f).length + 1 := by
  cases f with
  | addressed cls addr => simp [lengthOfByte, joinFirst, joinRest, (Fields.wellFormed_addressed_ne hf).1]
  | immediate | nullary => simp [lengthOfByte, joinFirst, joinRest]

theorem joinRest_cases (f : Fields) : joinRest f = [] ∨ ∃ v, joinRest f = [v] := by
  cases f with
  | nullary => exact .inl rfl
  | _ => exact .inr ⟨_, rfl⟩

/-- R102 on the bytes of an instruction. -/
theorem decodePair_encode (i : Instr) (rest : List Byte) :
    decodePair (firstByte i) ((joinRest (fieldsOf i) ++ rest).headD 0) = some i := by
  rw [decodePair, firstByte, splitFields_join (fieldsOf_wellFormed i), instrOfFields_of_fieldsOf]

theorem decode_encode_append (i : Instr) (rest : List Byte) : decode (encode i ++ rest) = .ok (i, rest) := by
  have hpair := decodePair_encode i rest
  have hlen : lengthOfByte (firstByte i) = (joinRest (fieldsOf i)).length + 1 :=
    lengthOfByte_joinFirst (fieldsOf_wellFormed i)
  rw [encode, List.cons_append, decode, hpair, hlen]
  obtain hj | ⟨v, hj⟩ := joinRest_cases (fieldsOf i) <;> simp [hj]

/-- Settles O1: the fields come back from their bytes by format, and the instruction from its fields. -/
theorem decodeOfEncodeIsIdentity : Obligations.DecodeOfEncodeIsIdentity := decode_encode_append

end Sys2Proof
end

section
/-! RAM as the instructions use it (spec/20_memory.md R62, R63, R74, R75): a read after a write, the one instruction that writes,
and the fetch after a store. -/

namespace Sys2Proof.Machine

variable {i : Instr} {s t : State} {addr : Word}

/-- R62: what a read answers after a write. -/
@[simp] theorem readByte_writeByte (addr x : Word) (v : Byte) (s : State) :
    readByte (writeByte addr v s) x = if x = addr then v else readByte s x := by
  simp [readByte, Memory.read_write, BitVec.toNat_inj]

/-- Settles O41: the read after the write is that of the memory's cells; the rest is the form of the two primitives. -/
theorem readAfterWrite : Obligations.ReadAfterWrite :=
  fun addr x v s _ => ⟨readByte_writeByte addr x v s, rfl, fun h => readByte_congr h x⟩

/-- RAM after an STA (R252). -/
theorem readByte_exec_sta (h : exec (.sta addr) s = .next t) (x : Word) :
    readByte t x = if x = addr then s.a else readByte s x := by
  cases h
  exact readByte_writeByte addr x s.a s

/-- Settles O36: an STA changes the byte at its own operand address only, and every other instruction leaves RAM. -/
theorem onlyStaWritesRam : Obligations.OnlyStaWritesRam := by
  intro i s t x h hne
  by_cases hsta : ∃ addr, i = .sta addr
  · obtain ⟨addr, rfl⟩ := hsta
    have hx : x ≠ addr := fun he => hne (he ▸ rfl)
    rw [readByte_exec_sta h, if_neg hx]
  · exact readByte_congr (exec_ram_frame h (not_exists.mp hsta)) x

/-- R74: the fetch from the address of a store decodes the byte stored. -/
theorem fetched_after_sta {u : State} (h : exec (.sta addr) s = .next t) (hram : u.ram = t.ram) (hpc : u.pc = addr) :
    fetched u = decodePair s.a (readByte u (addr + 1)) := by
  have stored : readByte u addr = s.a := by rw [readByte_congr hram, readByte_exec_sta h, if_pos rfl]
  rw [fetched, hpc, stored]

/-- Settles O42: the seven ticks of an STA are its meaning, which holds both bytes in IR and IR2 before it stores; so the store
may fall anywhere, and into the STA itself. -/
theorem storesReachLaterFetches : Obligations.StoresReachLaterFetches := by
  refine ⟨fun _ _ _ _ => fetched_after_sta, fun addr s hr hp _ => ?_⟩
  have hticks : ticks romRef 7 s = exec (.sta addr) s := (exec_runsInTicks hr hp).1
  exact ⟨_, hticks, rfl, rfl, rfl, rfl, rfl, rfl, (readByte_exec_sta rfl addr).trans (if_pos rfl)⟩

end Sys2Proof.Machine
end

section
/-! Which bytes are instructions (spec/30_encoding.md R90 to R102): the reserved first bytes, what a decoded byte list consists
of, and the step at bytes that decode or are reserved. -/

namespace Sys2Proof

variable {b0 b1 : Byte} {i : Instr}

/-! ## The reserved first bytes -/

theorem highNibble_toNat (b : Byte) : (highNibble b).toNat = b.toNat / 16 := by
  rw [highNibble, BitVec.extractLsb'_toNat, Nat.shiftRight_eq_div_pow]
  omega

theorem lowNibble_toNat (b : Byte) : (lowNibble b).toNat = b.toNat % 16 := by simp [lowNibble]

/-- The class of a byte as a test on its number. -/
theorem highNibble_eq_iff (b : Byte) (n : Nibble) : highNibble b = n ↔ b.toNat / 16 = n.toNat := by
  rw [← BitVec.toNat_inj, highNibble_toNat]

/-- R100: the reserved values as the spec's ranges of numbers. -/
theorem reservedByte_iff (b0 : Byte) : reservedByte b0 = true ↔
    b0.toNat ≤ 0x0F ∨ (0xE7 ≤ b0.toNat ∧ b0.toNat ≤ 0xEF) ∨ b0.toNat = 0xFE ∨ b0.toNat = 0xFF := by
  simp only [reservedByte, Bool.or_eq_true, Bool.and_eq_true, decide_eq_true_eq, BitVec.le_def, BitVec.toNat_ofNat]
  omega

/-- R97 to R99: the opcode maps have rows for well-formed fields and for no others. -/
theorem instrOfFields_eq_none_iff (f : Fields) : instrOfFields f = none ↔ f.wellFormed = false := by
  cases f with
  | addressed cls addr =>
    have rows : ∀ n : Nibble, n ∉ addressedMap.map Prod.fst ↔ (decide (0x1#4 ≤ n) && decide (n ≤ 0xD#4)) = false := by decide
    rw [instrOfFields, Option.map_eq_none_iff, Machine.lookupNibble_eq_none, rows, Fields.wellFormed]
  | immediate n imm =>
    have rows : ∀ n : Nibble, n ∉ immediateMap.map Prod.fst ↔ decide (n ≤ 0x6#4) = false := by decide
    rw [instrOfFields, Option.map_eq_none_iff, Machine.lookupNibble_eq_none, rows, Fields.wellFormed]
  | nullary n =>
    have rows : ∀ n : Nibble, n ∉ nullaryMap.map Prod.fst ↔ decide (n ≤ 0xD#4) = false := by decide
    rw [instrOfFields, Machine.lookupNibble_eq_none, rows, Fields.wellFormed]

/-- The fields a first byte is cut into are well formed unless the byte is reserved, format by format (R90, R100). -/
theorem splitFields_wellFormed (b0 b1 : Byte) : (splitFields b0 b1).wellFormed = false ↔ reservedByte b0 = true := by
  simp only [reservedByte_iff, splitFields, highNibble_eq_iff, BitVec.toNat_ofNat]
  split
  case isTrue hF =>
    simp only [Fields.wellFormed, decide_eq_false_iff_not, BitVec.le_def, lowNibble_toNat, BitVec.toNat_ofNat]
    omega
  case isFalse hF =>
    split
    case isTrue hE =>
      simp only [Fields.wellFormed, decide_eq_false_iff_not, BitVec.le_def, lowNibble_toNat, BitVec.toNat_ofNat]
      omega
    case isFalse hE =>
      simp only [Fields.wellFormed, Bool.and_eq_false_iff, decide_eq_false_iff_not, BitVec.le_def, highNibble_toNat,
        BitVec.toNat_ofNat]
      omega

theorem decodePair_eq_none_iff (b0 b1 : Byte) : decodePair b0 b1 = none ↔ reservedByte b0 = true := by
  rw [decodePair, instrOfFields_eq_none_iff, splitFields_wellFormed]

theorem decodePair_isNone (b0 b1 : Byte) : (decodePair b0 b1).isNone = reservedByte b0 := by
  rw [Bool.eq_iff_iff, Option.isNone_iff_eq_none, decodePair_eq_none_iff]

/-- Settles O3: the decoder's maps leave out the reserved values only, and those are counted. -/
theorem reservedBytesAreExactlyTheUndecodable : Obligations.ReservedBytesAreExactlyTheUndecodable := by
  refine ⟨fun b0 b1 => (decodePair_eq_none_iff b0 b1).trans (reservedByte_iff b0), ?_⟩
  simp only [decodePair_isNone]
  rfl

/-! ## The bytes of what decodes -/

/-- What a decoded byte list consists of: an instruction's first byte, the second where its length is two, and the rest. -/
theorem decode_cons_ok {tail rest : List Byte} (h : decode (b0 :: tail) = .ok (i, rest)) :
    decodePair b0 (tail.headD 0) = some i
    ∧ (lengthOfByte b0 = 1 ∧ tail = rest ∨ lengthOfByte b0 ≠ 1 ∧ ∃ b1, tail = b1 :: rest) := by
  rw [decode] at h
  cases hp : decodePair b0 (tail.headD 0) with
  | none =>
    rw [hp] at h
    cases h
  | some j =>
    rw [hp] at h
    by_cases hlen : lengthOfByte b0 = 1
    · obtain ⟨rfl, rfl⟩ : j = i ∧ tail = rest := by simpa [hlen] using h
      exact ⟨rfl, .inl ⟨hlen, rfl⟩⟩
    · cases tail with
      | nil => simp [hlen] at h
      | cons b1 tail =>
        obtain ⟨rfl, rfl⟩ : j = i ∧ tail = rest := by simpa [hlen] using h
        exact ⟨rfl, .inr ⟨hlen, b1, rfl⟩⟩

/-- R94: the format that a first byte selects has a second byte where the length is two. -/
theorem joinRest_splitFields_of_length (b0 b1 : Byte) :
    joinRest (splitFields b0 b1) = if lengthOfByte b0 = 1 then [] else [b1] := by
  by_cases hF : highNibble b0 = 0xF#4
  · simp [splitFields, lengthOfByte, hF, joinRest]
  · by_cases hE : highNibble b0 = 0xE#4 <;> simp [splitFields, lengthOfByte, hF, hE, joinRest]

/-- The instruction of two bytes is written as the first of them, and the second where its length is two. -/
theorem encode_of_decodePair (h : decodePair b0 b1 = some i) :
    encode i = b0 :: if lengthOfByte b0 = 1 then [] else [b1] := by
  have hf : fieldsOf i = splitFields b0 b1 := Machine.instrOfFields_fieldsOf h
  rw [encode, firstByte, hf, Machine.joinFirst_splitFields, joinRest_splitFields_of_length]

/-- Settles O2: by the length of the instruction, the bytes the decoder consumes are those the encoder writes. -/
theorem decodedBytesAreTheEncoding : Obligations.DecodedBytesAreTheEncoding := by
  intro bytes rest i h
  cases bytes with
  | nil => cases h
  | cons b0 tail =>
    obtain ⟨hp, ⟨hlen, rfl⟩ | ⟨hlen, b1, rfl⟩⟩ := decode_cons_ok h
    · simp [encode_of_decodePair hp, hlen]
    · simp [encode_of_decodePair hp, hlen]

/-- Settles O4: the decoder evaluated on the seven words. -/
theorem specWordsDecode : Obligations.SpecWordsDecode := by
  unfold Obligations.SpecWordsDecode
  decide

/-! ## The step at what decodes and at what does not -/

namespace Machine

variable {s : State}

theorem fetched_of_decode {rest : List Byte} (h : decode (bytesFrom s s.pc 2) = .ok (i, rest)) : fetched s = some i :=
  (decode_cons_ok h).1

/-- Settles O5: the step fetches the instruction that the two bytes at PC decode to. -/
theorem stepRunsDecodedInstruction : Obligations.StepRunsDecodedInstruction :=
  fun _ _ _ hr h => step_of_fetched hr (fetched_of_decode h)

theorem ticks_fetch (hr : ReadyToFetch s) : ticks romRef 2 s = .next (afterFetch s) := by
  simp [ticks, tick_fetchAddress hr, tick_fetchByte hr]

/-- Settles O7: nothing is fetched from a reserved byte, so the step refuses it, and the frame of that byte in the ROM ends with
the fetch pair. -/
theorem reservedOpcodesAreRefused : Obligations.ReservedOpcodesAreRefused := by
  intro s hr hb
  have hfetched : fetched s = none := (decodePair_eq_none_iff _ _).mpr hb
  exact ⟨step_of_reserved hr hfetched, ⟨afterFetch s, ticks_fetch hr, rfl⟩, (reserved_runsTo hr hfetched).ticks_eq⟩

end Machine

end Sys2Proof
end

section
/-! The ALU (spec/40_alu.md R120 to R139): each operation's result and carry in natural numbers, and the flags a tick of any ROM
leaves, which are those of its ALU stage. -/

namespace Sys2Proof.Machine

variable {op : AluOp} {w : ControlWord} {s t : State} {c c' : Cycle}

/-! ## Results and carries in natural numbers -/

@[simp] theorem aluOpOfCode_aluOpCode (op : AluOp) : aluOpOfCode (aluOpCode op) = some op := by cases op <;> rfl

/-- R133, R134: the codes without an operation. -/
theorem aluOpOfCode_eq_none_iff (code : Nibble) : aluOpOfCode code = none ↔ code = 0 ∨ 13 ≤ code.toNat := by
  revert code
  decide

/-- The top bit of a word is set when the number reaches its weight: the carry of a sum, and SF. -/
theorem getLsbD_top {n : Nat} (x : BitVec (n + 1)) : x.getLsbD n = decide (2 ^ n ≤ x.toNat) := BitVec.msb_eq_decide x

@[simp] theorem aluResult_add_toNat (a b : Byte) : (aluResult .add a b).toNat = (a.toNat + b.toNat) % 256 := by
  simp [aluResult, addSum_toNat]

@[simp] theorem aluResult_sub_toNat (a b : Byte) : (aluResult .sub a b).toNat = (a.toNat + 256 - b.toNat) % 256 := by
  simp [aluResult, subSum_toNat]

@[simp] theorem aluResult_inc_toNat (a b : Byte) : (aluResult .inc a b).toNat = (a.toNat + 1) % 256 := by
  simp [aluResult, incSum_toNat]

@[simp] theorem aluResult_dec_toNat (a b : Byte) : (aluResult .dec a b).toNat = (a.toNat + 255) % 256 := by
  simp [aluResult, BitVec.toNat_sub, Nat.add_comm]

@[simp] theorem aluResult_not_toNat (a b : Byte) : (aluResult .not a b).toNat = 255 - a.toNat := by
  simp [aluResult]

@[simp] theorem aluResult_rsh_toNat (a b : Byte) : (aluResult .rsh a b).toNat = a.toNat / 2 := by
  simp [aluResult, Nat.shiftRight_eq_div_pow]

@[simp] theorem aluResult_lsh_toNat (a b : Byte) : (aluResult .lsh a b).toNat = 2 * a.toNat % 256 := by
  simp [aluResult, Nat.shiftLeft_eq, Nat.mul_comm]

@[simp] theorem aluResult_mull_toNat (a b : Byte) : (aluResult .mull a b).toNat = a.toNat * b.toNat % 256 := by
  simp [aluResult, Config.mulSigned, product_toNat]

@[simp] theorem aluResult_mulh_toNat (a b : Byte) : (aluResult .mulh a b).toNat = a.toNat * b.toNat / 256 := by
  have high : a.toNat * b.toNat / 256 < 256 := by
    have := Nat.mul_le_mul (show a.toNat ≤ 255 by omega) (show b.toNat ≤ 255 by omega)
    omega
  simp [aluResult, Config.mulSigned, product_toNat, Nat.shiftRight_eq_div_pow, Nat.mod_eq_of_lt high]

@[simp] theorem aluCarry_add (a b : Byte) : aluCarry .add a b = some (decide (256 ≤ a.toNat + b.toNat)) := by
  simp only [aluCarry, getLsbD_top, addSum_toNat, Nat.reducePow]

/-- R122, D7: the carry of a subtraction says that there was no borrow. -/
@[simp] theorem aluCarry_sub (a b : Byte) : aluCarry .sub a b = some (decide (b.toNat ≤ a.toNat)) := by
  have noBorrow : 256 ≤ a.toNat + 256 - b.toNat ↔ b.toNat ≤ a.toNat := by omega
  simp only [aluCarry, getLsbD_top, subSum_toNat, Nat.reducePow, noBorrow]

@[simp] theorem aluCarry_inc (a b : Byte) : aluCarry .inc a b = some (decide (a.toNat = 255)) := by
  have carries : 256 ≤ a.toNat + 1 ↔ a.toNat = 255 := by omega
  simp only [aluCarry, getLsbD_top, incSum_toNat, Nat.reducePow, carries]

theorem beq_zero_eq_decide (r : Byte) : (r == 0) = decide (r.toNat = 0) := by
  simp [beq_eq_decide, BitVec.toNat_eq]

/-- R124, D8: the carry of DEC is its borrow. -/
@[simp] theorem aluCarry_dec (a b : Byte) : aluCarry .dec a b = some (decide (a.toNat = 0)) := by
  simp only [aluCarry, Config.decCfIsBorrow, beq_zero_eq_decide, beq_true]

@[simp] theorem aluCarry_lsh (a b : Byte) : aluCarry .lsh a b = some (decide (128 ≤ a.toNat)) := by
  simp only [aluCarry, getLsbD_top, Nat.reducePow]

/-- Settles O44: each code's row is its operation's result and carry; the logical results are the model's by definition. -/
theorem aluTable : Obligations.AluTable :=
  ⟨aluOpOfCode_eq_none_iff, fun a b =>
    ⟨⟨.add, rfl, aluResult_add_toNat a b, aluCarry_add a b⟩,
      ⟨.sub, rfl, aluResult_sub_toNat a b, aluCarry_sub a b⟩,
      ⟨.inc, rfl, aluResult_inc_toNat a b, aluCarry_inc a b⟩,
      ⟨.dec, rfl, aluResult_dec_toNat a b, aluCarry_dec a b⟩,
      ⟨.and, rfl, rfl, rfl⟩,
      ⟨.or, rfl, rfl, rfl⟩,
      ⟨.not, rfl, aluResult_not_toNat a b, rfl⟩,
      ⟨.rsh, rfl, aluResult_rsh_toNat a b, rfl⟩,
      ⟨.lsh, rfl, aluResult_lsh_toNat a b, aluCarry_lsh a b⟩,
      ⟨.mull, rfl, aluResult_mull_toNat a b, rfl⟩,
      ⟨.mulh, rfl, aluResult_mulh_toNat a b, rfl⟩,
      ⟨.xor, rfl, rfl, rfl⟩⟩⟩

/-! ## The flags through a tick -/

/-- CF, ZF and SF. -/
def flagsOf (s : State) : Bool × Bool × Bool := (s.cf, s.zf, s.sf)

theorem fromData_flags {line : Bool} {f : Byte → State → State} (h : fromData line f c = some c')
    (hf : ∀ v u, flagsOf (f v u) = flagsOf u) : flagsOf c'.st = flagsOf c.st := by
  cases line
  · cases h; rfl
  · obtain ⟨v, -, rfl⟩ := Option.map_eq_some_iff.mp h
    exact hf v c.st

theorem fromAddress_flags {line : Bool} {f : Word → State → State} (h : fromAddress line f c = some c')
    (hf : ∀ v u, flagsOf (f v u) = flagsOf u) : flagsOf c'.st = flagsOf c.st := by
  cases line
  · cases h; rfl
  · obtain ⟨v, -, rfl⟩ := Option.map_eq_some_iff.mp h
    exact hf v c.st

theorem driveStage_st (w : ControlWord) (c : Cycle) : (driveStage w c).st = c.st := by
  unfold driveStage
  cases asserts w .co <;> cases asserts w .ao <;> cases asserts w .bo <;> cases asserts w .io <;> rfl

theorem ramStage_flags (h : ramStage w c = some c') : flagsOf c'.st = flagsOf c.st := by
  obtain ⟨c₁, hmi, hri⟩ := Option.bind_eq_some_iff.mp h
  calc flagsOf c'.st = flagsOf c₁.st := by
        rw [fromData_flags hri fun _ _ => rfl]
        cases asserts w .ro <;> rfl
    _ = flagsOf c.st := fromAddress_flags hmi fun _ _ => rfl

theorem popStage_flags (w : ControlWord) (c : Cycle) : flagsOf (popStage w c).st = flagsOf c.st := by
  unfold popStage
  cases asserts w .so <;> cases asserts w .sa <;> rfl

theorem stackStage_flags (h : stackStage w c = some c') : flagsOf c'.st = flagsOf c.st := by
  obtain ⟨c₁, hword, h⟩ := Option.bind_eq_some_iff.mp h
  obtain ⟨c₂, hbyte, rfl⟩ := Option.map_eq_some_iff.mp h
  calc flagsOf (popStage w c₂).st = flagsOf c₂.st := popStage_flags w c₂
    _ = flagsOf c₁.st := fromData_flags hbyte fun _ _ => rfl
    _ = flagsOf c.st := fromAddress_flags hword fun _ _ => rfl

theorem registerStage_flags (h : registerStage w c = some c') : flagsOf c'.st = flagsOf c.st := by
  obtain ⟨c₁, ha, h⟩ := Option.bind_eq_some_iff.mp h
  obtain ⟨c₂, hb, h⟩ := Option.bind_eq_some_iff.mp h
  obtain ⟨c₃, hi, h⟩ := Option.bind_eq_some_iff.mp h
  obtain ⟨c₄, hx, h⟩ := Option.bind_eq_some_iff.mp h
  obtain ⟨c₅, ho, hp⟩ := Option.bind_eq_some_iff.mp h
  calc flagsOf c'.st = flagsOf c₅.st := fromData_flags hp fun _ _ => rfl
    _ = flagsOf c₄.st := fromData_flags ho fun _ _ => rfl
    _ = flagsOf c₃.st := fromData_flags hx fun _ _ => rfl
    _ = flagsOf c₂.st := fromData_flags hi fun _ _ => rfl
    _ = flagsOf c₁.st := fromData_flags hb fun _ _ => rfl
    _ = flagsOf c.st := fromData_flags ha fun _ _ => rfl

theorem pcStage_flags (h : pcStage w c = some c') : flagsOf c'.st = flagsOf c.st := by
  unfold pcStage at h
  rw [fromAddress_flags h fun _ _ => rfl]
  cases asserts w .ce <;> rfl

theorem refreshStage_flags (w : ControlWord) (c : Cycle) : flagsOf (refreshStage w c).st = flagsOf c.st := by
  unfold refreshStage
  cases asserts w .rf <;> rfl

/-- R165: after the ALU's stage nothing in a tick writes a flag. -/
theorem datapath_flags (h : datapath w s = some t) : ∃ c, aluStage w ⟨s, none, none⟩ = some c ∧ flagsOf t = flagsOf c.st := by
  obtain ⟨c, halu, h⟩ := Option.bind_eq_some_iff.mp h
  obtain ⟨c₁, hram, h⟩ := Option.bind_eq_some_iff.mp h
  obtain ⟨c₂, hstack, h⟩ := Option.bind_eq_some_iff.mp h
  obtain ⟨c₃, hreg, h⟩ := Option.bind_eq_some_iff.mp h
  obtain ⟨c₄, hpc, rfl⟩ := Option.map_eq_some_iff.mp h
  refine ⟨c, halu, ?_⟩
  calc flagsOf (refreshStage w c₄).st = flagsOf c₄.st := refreshStage_flags w c₄
    _ = flagsOf c₃.st := pcStage_flags hpc
    _ = flagsOf c₂.st := registerStage_flags hreg
    _ = flagsOf c₁.st := stackStage_flags hstack
    _ = flagsOf (driveStage w c).st := ramStage_flags hram
    _ = flagsOf c.st := by rw [driveStage_st]

/-- What a tick that answers has done: its word is the terminator or admitted, and it is the halt or the datapath (R164). -/
theorem tickWord_next (h : tickWord w s = .next t) : (w = 0 ∨ admitted w = true) ∧
    ((asserts w .ht || s.hostStop) = true ∧ t = { controlStep w s with halted := true }
      ∨ (asserts w .ht || s.hostStop) = false ∧ datapath w (controlStep w s) = some t) := by
  unfold tickWord at h
  split at h
  · cases h
  · next hw =>
    refine ⟨by simpa [or_iff_not_imp_left] using hw, ?_⟩
    split at h
    · next hh => exact .inl ⟨hh, by cases h; rfl⟩
    · next hh =>
      cases hd : datapath w (controlStep w s) <;> rw [hd] at h <;> cases h
      exact .inr ⟨by simpa using hh, rfl⟩

theorem tick_next {rom : Rom} (hrom : rom (romIndex s) = some w) (h : tick rom s = .next t) :
    s.halted = false ∧ tickWord w s = .next t := by
  unfold tick at h
  split at h
  · cases h
  · next hs => exact ⟨by simpa using hs, by rwa [hrom] at h⟩

/-- R153 condition 8: a word that halts selects no ALU operation. -/
theorem aluCode_of_ht (hw : w = 0 ∨ admitted w = true) (hh : asserts w .ht = true) : aluCode w = 0 := by
  obtain rfl | ha := hw
  · rfl
  · obtain ⟨-, alone⟩ := Bool.and_eq_true_iff.mp ha
    obtain rfl : w = wordOf [.ht] := by simpa [haltAlone, hh] using alone
    rfl

theorem controlStep_flags (w : ControlWord) (s : State) : flagsOf (controlStep w s) = flagsOf s := by
  unfold controlStep
  split <;> rfl

theorem setFlags_controlStep_flags (op : AluOp) (w : ControlWord) (s : State) :
    flagsOf (setFlags op (controlStep w s).a (controlStep w s).b (controlStep w s)) = flagsOf (setFlags op s.a s.b s) := by
  unfold controlStep
  split <;> rfl

theorem aluStage_of_code_zero (hw : aluCode w = 0) (c : Cycle) : aluStage w c = some c := if_pos hw

theorem aluCode_ne_zero_of_op (hop : aluOpOfCode (aluCode w) = some op) : aluCode w ≠ 0 := by
  intro hw
  rw [hw] at hop
  cases hop

theorem aluStage_of_op (hop : aluOpOfCode (aluCode w) = some op) (c : Cycle) :
    aluStage w c = some { c with data := some (aluResult op c.st.a c.st.b), st := setFlags op c.st.a c.st.b c.st } := by
  rw [aluStage, if_neg (aluCode_ne_zero_of_op hop), hop, Option.map_some]

/-- R133: a tick without an ALU operation leaves the flags, whether it halts or not. -/
theorem tickWord_flags_of_code_zero (h : tickWord w s = .next t) (hw : aluCode w = 0) : flagsOf t = flagsOf s := by
  obtain ⟨-, ⟨-, rfl⟩ | ⟨-, hd⟩⟩ := tickWord_next h
  · exact controlStep_flags w s
  · obtain ⟨c, halu, hflags⟩ := datapath_flags hd
    cases (aluStage_of_code_zero hw _).symm.trans halu
    exact hflags.trans (controlStep_flags w s)

/-- R135, R136: a tick that the host does not stop writes the flags of its ALU operation. -/
theorem tickWord_flags_of_op (hs : s.hostStop = false) (h : tickWord w s = .next t)
    (hop : aluOpOfCode (aluCode w) = some op) : flagsOf t = flagsOf (setFlags op s.a s.b s) := by
  obtain ⟨hw, ⟨hh, -⟩ | ⟨-, hd⟩⟩ := tickWord_next h
  · have hht : asserts w .ht = true := by simpa [hs] using hh
    exact absurd (aluCode_of_ht hw hht) (aluCode_ne_zero_of_op hop)
  · obtain ⟨c, halu, hflags⟩ := datapath_flags hd
    cases (aluStage_of_op hop _).symm.trans halu
    exact hflags.trans (setFlags_controlStep_flags op w s)

theorem flagsOf_eq_iff : flagsOf t = flagsOf s ↔ t.cf = s.cf ∧ t.zf = s.zf ∧ t.sf = s.sf := by
  simp [flagsOf]

/-- R136, D6: the operations that leave CF. -/
theorem aluCarry_eq_none (h : op ∈ [AluOp.and, .or, .not, .rsh, .mulh, .xor]) (a b : Byte) : aluCarry op a b = none := by
  fin_cases h <;> rfl

/-- R136: the operations that write CF. -/
theorem aluCarry_eq_some_getD (h : op ∈ [AluOp.add, .sub, .inc, .dec, .lsh, .mull]) (a b : Byte) (c : Bool) :
    aluCarry op a b = some ((aluCarry op a b).getD c) := by
  fin_cases h <;> rfl

/-- Settles O45: the flags after a tick are those of its word's ALU operation on the A and B before it. -/
theorem ticksWriteTheFlagsByLaw : Obligations.TicksWriteTheFlagsByLaw := by
  intro rom s t w hs hrom h
  obtain ⟨-, hword⟩ := tick_next hrom h
  refine ⟨fun hw => flagsOf_eq_iff.mp (tickWord_flags_of_code_zero hword hw), fun op hop => ?_⟩
  obtain ⟨hcf, hzf, hsf⟩ := flagsOf_eq_iff.mp (tickWord_flags_of_op hs hword hop)
  rw [setFlags_cf] at hcf
  refine ⟨hzf.trans (beq_zero_eq_decide _), hsf.trans (getLsbD_top _), fun hkeeps => ?_, fun hwrites => ?_⟩
  · rw [hcf, aluCarry_eq_none hkeeps, Option.getD_none]
  · rw [hcf]
    exact aluCarry_eq_some_getD hwrites s.a s.b s.cf

end Sys2Proof.Machine
end

section
/-! The call stack (spec/41_control_and_tick.md R174, R175; spec/95_test_vectors.md section 1.1, invariant 4): pops see what pushes
of either width wrote, the last value first. -/

namespace Sys2Proof.Machine

/-! ## Pops -/

/-- D29: pops leave the cells. -/
theorem iterate_dropCell_stk (k : Nat) (s : State) : (Nat.iterate dropCell k s).stk = s.stk := by
  induction k generalizing s with
  | zero => rfl
  | succ k ih => exact ih (dropCell s)

theorem iterate_dropCell_sp (k : Nat) (s : State) : (Nat.iterate dropCell k s).sp = s.sp - BitVec.ofNat 8 k := by
  induction k generalizing s with
  | zero => simp
  | succ k ih =>
    rw [Function.iterate_succ_apply, ih, dropCell_sp]
    bv_omega

/-! ## Pushes of a width -/

/-- R174: a push writes, at SP, a cell in which a pop of its width sees the value through `view`, and SP advances. -/
structure PushesThrough {α : Type} (view : Word → α) (push : α → State → State) : Prop where
  sp : ∀ v s, (push v s).sp = s.sp + 1
  stk : ∀ v s, ∃ cell, view cell = v ∧ (push v s).stk = s.stk.set s.sp.toNat cell s.sp.isLt

theorem pushWord_pushesThrough : PushesThrough id pushWord := ⟨fun _ _ => rfl, fun v _ => ⟨v, rfl, rfl⟩⟩

/-- D13: an 8-bit pop does not see the free nibble of an 8-bit push. -/
theorem pushByte_pushesThrough : PushesThrough (fun cell => cell.extractLsb' 0 8) pushByte :=
  ⟨fun _ _ => rfl, fun v s => ⟨Config.freeNibble s.freeCount ++ v, extractLsb'_cell _ v, rfl⟩⟩

namespace PushesThrough

variable {α : Type} {view : Word → α} {push : α → State → State} (hpush : PushesThrough view push)
include hpush

theorem view_topCell_push (v : α) (s : State) : view (topCell (push v s)) = v := by
  obtain ⟨cell, hview, hstk⟩ := hpush.stk v s
  simp [topCell, hpush.sp, hstk, hview]

/-- A pop after the push's own one sees the cell it would see without the push, within the 256 cells. -/
theorem topCell_iterate_succ_push {k : Nat} (hk : k + 1 < 256) (v : α) (s : State) :
    topCell (Nat.iterate dropCell (k + 1) (push v s)) = topCell (Nat.iterate dropCell k s) := by
  obtain ⟨cell, -, hstk⟩ := hpush.stk v s
  have sameSp : (Nat.iterate dropCell (k + 1) (push v s)).sp = (Nat.iterate dropCell k s).sp := by
    rw [iterate_dropCell_sp, iterate_dropCell_sp, hpush.sp]
    bv_omega
  have otherCell : s.sp.toNat ≠ ((Nat.iterate dropCell k s).sp - 1).toNat := by
    rw [iterate_dropCell_sp]
    bv_omega
  simp only [topCell, sameSp, iterate_dropCell_stk, hstk, Vector.getElem_set_ne _ _ otherCell]

theorem foldl_sp (values : List α) (s : State) :
    (values.foldl (fun u v => push v u) s).sp = s.sp + BitVec.ofNat 8 values.length := by
  induction values generalizing s with
  | nil => simp
  | cons v values ih =>
    rw [List.foldl_cons, ih, hpush.sp, List.length_cons]
    bv_omega

/-- As many pops as pushes bring SP back. -/
theorem iterate_foldl_sp (values : List α) (s : State) :
    (Nat.iterate dropCell values.length (values.foldl (fun u v => push v u) s)).sp = s.sp := by
  rw [iterate_dropCell_sp, hpush.foldl_sp, add_sub_cancel_right]

/-- The last value pushed is the first popped, and the pops after it are those of the pushes before it. -/
theorem view_topCell_iterate_foldl {values : List α} (hlen : values.length ≤ 256) (s : State) {k : Nat}
    (hk : k < values.length) :
    some (view (topCell (Nat.iterate dropCell k (values.foldl (fun u v => push v u) s)))) = values.reverse[k]? := by
  induction values using List.reverseRecOn generalizing k with
  | nil => cases hk
  | append_singleton values v ih =>
    rw [List.length_append, List.length_singleton] at hlen hk
    rw [List.foldl_append, List.foldl_cons, List.foldl_nil, List.reverse_append, List.reverse_singleton]
    cases k with
    | zero => exact congrArg some (hpush.view_topCell_push v _)
    | succ k =>
      rw [hpush.topCell_iterate_succ_push (by omega), ih (by omega) (by omega)]
      rfl

end PushesThrough

/-- Settles O43: both widths push through the view a pop of that width has of a cell. -/
theorem popsReverseThePushes : Obligations.PopsReverseThePushes :=
  ⟨fun values s hlen => ⟨pushWord_pushesThrough.iterate_foldl_sp values s,
      fun _ hk => pushWord_pushesThrough.view_topCell_iterate_foldl hlen s hk⟩,
    fun values s hlen => ⟨pushByte_pushesThrough.iterate_foldl_sp values s,
      fun _ hk => pushByte_pushesThrough.view_topCell_iterate_foldl hlen s hk⟩⟩

end Sys2Proof.Machine
end

section
/-! The control unit (spec/41_control_and_tick.md R160 to R164): the ROM index, the control step, the tick on the terminator and
the tick that halts, with any ROM. -/

namespace Sys2Proof.Machine

variable {w : ControlWord} {s : State} {rom : Rom}

/-- Two bit fields side by side, as a number. -/
theorem append_toNat {m n : Nat} (x : BitVec m) (y : BitVec n) : (x ++ y).toNat = x.toNat * 2 ^ n + y.toNat := by
  rw [BitVec.toNat_append, ← Nat.shiftLeft_add_eq_or_of_lt y.isLt, Nat.shiftLeft_eq]

/-- Settles O46: the index is its five fields side by side. -/
theorem romIndexIsTheFormula : Obligations.RomIndexIsTheFormula := by
  intro s
  simp only [romIndex, indexOf, append_toNat, BitVec.toNat_ofBool]
  omega

/-- R161, R162: the control step as one record. -/
theorem controlStep_eq (w : ControlWord) (s : State) :
    controlStep w s = { s with cw := w, microStep := if w = 0 then 0 else s.microStep + 1 } := by
  unfold controlStep
  split
  · next hw => rw [hw]
  · rfl

/-- D15: STEP wraps at 7. -/
theorem microStep_succ (k : BitVec 3) : k + 1 = BitVec.ofNat 3 ((k.toNat + 1) % 8) := by
  apply BitVec.eq_of_toNat_eq
  simp

theorem tick_of_running (hs : s.halted = false) (hrom : rom (romIndex s) = some w) : tick rom s = tickWord w s := by
  simp [tick, hs, hrom]

/-- R164: a word that is not refused halts the machine under HT or the host's stop. -/
theorem tickWord_of_halt (ha : w ≠ 0 → admitted w = true) (hh : asserts w .ht = true ∨ s.hostStop = true) :
    tickWord w s = .next { controlStep w s with halted := true } := by
  have notRefused : ¬ (w ≠ 0 ∧ admitted w = false) := fun ⟨hw, hna⟩ => Bool.eq_false_iff.mp hna (ha hw)
  rw [tickWord, if_neg notRefused, if_pos (Bool.or_eq_true_iff.mpr hh)]

/-- Settles O47: the terminator's tick is the end of an instruction. -/
theorem terminatorTickChangesNothingElse : Obligations.TerminatorTickChangesNothingElse :=
  fun _ s hs hstop hrom => (tick_of_running hs hrom).trans (tickWord_zero s hstop)

/-- Settles O49: the halting tick is the control step and HALTED. -/
theorem haltTickPerformsNoDatapathAction : Obligations.HaltTickPerformsNoDatapathAction := by
  intro rom s w hs hrom ha hh
  rw [tick_of_running hs hrom, tickWord_of_halt ha hh, controlStep_eq, microStep_succ]

end Sys2Proof.Machine
end

section
/-! The admitted control words (spec/41_control_and_tick.md R153): each check as the condition the spec words. -/

namespace Sys2Proof.Machine

variable {w : ControlWord}

/-! ## Conditions 2 and 3: one driver -/

@[simp] theorem atMostOne_nil : atMostOne [] = true := rfl

/-- At most one of a list holds: the first excludes the others, and at most one of those holds. -/
theorem atMostOne_cons (b : Bool) (l : List Bool) :
    atMostOne (b :: l) = true ↔ (b = true → ∀ c ∈ l, c = false) ∧ atMostOne l = true := by
  cases b
  · simp [atMostOne]
  · have noneMeansAtMostOne : l.filter id = [] → (l.filter id).length ≤ 1 := fun h => by simp [h]
    simpa [atMostOne, List.filter_eq_nil_iff] using noneMeansAtMostOne

theorem atMostOne_iff_pairwise (l : List Bool) :
    atMostOne l = true ↔ (l.map (· = true)).Pairwise (fun p q => ¬ (p ∧ q)) := by
  rw [List.pairwise_map]
  induction l with
  | nil => simp
  | cons b l ih => cases b <;> simp [atMostOne_cons, ih]

theorem oneDataDriver_iff : oneDataDriver w = true ↔
    [aluCode w ≠ 0, asserts w .ao = true, asserts w .bo = true, asserts w .ro = true,
      asserts w .so = true ∧ ¬ asserts w .sa = true].Pairwise (fun p q => ¬ (p ∧ q)) := by
  rw [oneDataDriver, atMostOne_iff_pairwise]
  simp only [List.map, bne_iff_ne, Bool.and_eq_true, Bool.not_eq_true', Bool.not_eq_true]

theorem oneAddressDriver_iff : oneAddressDriver w = true ↔
    [asserts w .co = true, asserts w .io = true,
      asserts w .so = true ∧ asserts w .sa = true].Pairwise (fun p q => ¬ (p ∧ q)) := by
  rw [oneAddressDriver, atMostOne_iff_pairwise]
  simp only [List.map, Bool.and_eq_true]

/-- A driver of the data bus excludes those named after it. -/
theorem dataDrivers_exclude (hone : oneDataDriver w = true) :
    (aluCode w ≠ 0 →
      asserts w .ao = false ∧ asserts w .bo = false ∧ asserts w .ro = false ∧ (asserts w .so && !asserts w .sa) = false)
    ∧ (asserts w .ao = true → asserts w .bo = false ∧ asserts w .ro = false ∧ (asserts w .so && !asserts w .sa) = false)
    ∧ (asserts w .bo = true → asserts w .ro = false ∧ (asserts w .so && !asserts w .sa) = false)
    ∧ (asserts w .ro = true → (asserts w .so && !asserts w .sa) = false) := by
  simpa only [oneDataDriver, atMostOne_cons, atMostOne_nil, List.forall_mem_cons, List.not_mem_nil, false_implies,
    implies_true, true_and, and_true, bne_iff_ne, ne_eq] using hone

/-- A driver of the address bus excludes those named after it. -/
theorem addressDrivers_exclude (hone : oneAddressDriver w = true) :
    (asserts w .co = true → asserts w .io = false ∧ (asserts w .so && asserts w .sa) = false)
    ∧ (asserts w .io = true → (asserts w .so && asserts w .sa) = false) := by
  simpa only [oneAddressDriver, atMostOne_cons, atMostOne_nil, List.forall_mem_cons, List.not_mem_nil, false_implies,
    implies_true, true_and, and_true] using hone

/-! ## Condition 4: every reader has a driver -/

theorem not_or_eq_true_iff (p q : Bool) : (!p || q) = true ↔ (p = true → q = true) := by
  cases p <;> simp

/-- Each reader has its bus driven by the stage in which it reads. -/
theorem readersDriven_iff_driven : readersDriven w = true ↔
    (asserts w .ri = true → dataDrivenEarly w = true)
    ∧ ((asserts w .si && !asserts w .sa) = true → (dataDrivenEarly w || asserts w .ro) = true)
    ∧ ((asserts w .ai || asserts w .bi || asserts w .ii || asserts w .xi || asserts w .oi || asserts w .pi) = true →
        (dataDrivenEarly w || asserts w .ro || (asserts w .so && !asserts w .sa)) = true)
    ∧ ((asserts w .mi || (asserts w .si && asserts w .sa)) = true → (asserts w .co || asserts w .io) = true)
    ∧ (asserts w .jp = true → (asserts w .co || asserts w .io || (asserts w .so && asserts w .sa)) = true) := by
  simp only [readersDriven, Bool.or_assoc, Bool.and_eq_true, not_or_eq_true_iff, and_assoc]

theorem dataDrivenEarly_iff : dataDrivenEarly w = true ↔ aluCode w ≠ 0 ∨ asserts w .ao = true ∨ asserts w .bo = true := by
  simp only [dataDrivenEarly, Bool.or_eq_true, bne_iff_ne, or_assoc]

theorem readersDriven_iff : readersDriven w = true ↔
    (asserts w .ri = true → aluCode w ≠ 0 ∨ asserts w .ao = true ∨ asserts w .bo = true)
    ∧ (asserts w .si = true ∧ ¬ asserts w .sa = true →
        aluCode w ≠ 0 ∨ asserts w .ao = true ∨ asserts w .bo = true ∨ asserts w .ro = true)
    ∧ (asserts w .ai = true ∨ asserts w .bi = true ∨ asserts w .ii = true ∨ asserts w .xi = true ∨ asserts w .oi = true
          ∨ asserts w .pi = true →
        aluCode w ≠ 0 ∨ asserts w .ao = true ∨ asserts w .bo = true ∨ asserts w .ro = true
          ∨ (asserts w .so = true ∧ ¬ asserts w .sa = true))
    ∧ (asserts w .mi = true ∨ (asserts w .si = true ∧ asserts w .sa = true) → asserts w .co = true ∨ asserts w .io = true)
    ∧ (asserts w .jp = true →
        asserts w .co = true ∨ asserts w .io = true ∨ (asserts w .so = true ∧ asserts w .sa = true)) := by
  simp only [readersDriven_iff_driven, dataDrivenEarly_iff, Bool.or_eq_true, Bool.and_eq_true, Bool.not_eq_true',
    Bool.not_eq_true, or_assoc]

/-! ## Conditions 1, 5, 6 and 7 -/

theorem noOpposedStrobes_iff : noOpposedStrobes w = true ↔
    ¬ (asserts w .ri = true ∧ asserts w .ro = true) ∧ ¬ (asserts w .ce = true ∧ asserts w .jp = true) := by
  simp only [noOpposedStrobes, Bool.and_eq_true, Bool.not_eq_true', ← Bool.not_eq_true]

theorem noPushWithPop_iff : noPushWithPop w = true ↔ ¬ (asserts w .si = true ∧ asserts w .so = true) := by
  rw [noPushWithPop, Bool.not_eq_true', ← Bool.not_eq_true, Bool.and_eq_true]

theorem noLatchWithAccess_iff : noLatchWithAccess w = true ↔
    ¬ (asserts w .mi = true ∧ (asserts w .ro = true ∨ asserts w .ri = true)) := by
  rw [noLatchWithAccess, Bool.not_eq_true', ← Bool.not_eq_true, Bool.and_eq_true, Bool.or_eq_true]

theorem aluCodeDefined_iff :
    aluCodeDefined w = true ↔ aluCode w ≠ 0b1101 ∧ aluCode w ≠ 0b1110 ∧ aluCode w ≠ 0b1111 := by
  have codes : ∀ code : Nibble, code < 0xD#4 ↔ code ≠ 0b1101 ∧ code ≠ 0b1110 ∧ code ≠ 0b1111 := by decide
  exact decide_eq_true_iff.trans (codes (aluCode w))

/-! ## Condition 8: HT stands alone -/

/-- The control lines in the order of their bits (R150). -/
def controlLines : List ControlLine :=
  [.mi, .ri, .ro, .ii, .io, .co, .jp, .ce, .ai, .ao, .l1, .l2, .l3, .l4, .ht, .bi, .bo, .oi, .xi, .si, .so, .sa, .rf, .pi]

/-- Every bit of a control word is a line's. -/
theorem exists_lineBit {k : Nat} (hk : k < 24) : ∃ l, lineBit l = k := by
  have bits : controlLines.map lineBit = List.range 24 := by decide
  obtain ⟨l, -, hl⟩ := List.mem_map.mp (bits ▸ List.mem_range.mpr hk)
  exact ⟨l, hl⟩

/-- A control word is the lines it asserts. -/
theorem eq_of_asserts {v : ControlWord} (h : ∀ l, asserts w l = asserts v l) : w = v := by
  apply BitVec.eq_of_getLsbD_eq
  intro k hk
  obtain ⟨l, rfl⟩ := exists_lineBit hk
  exact h l

theorem asserts_wordOf_ht (l : ControlLine) : asserts (wordOf [.ht]) l = decide (l = .ht) := by
  cases l <;> decide

theorem haltAlone_iff : haltAlone w = true ↔ (asserts w .ht = true → ∀ l, asserts w l = true → l = .ht) := by
  rw [haltAlone, not_or_eq_true_iff, beq_iff_eq]
  refine imp_congr_right fun hht => ⟨?_, fun alone => eq_of_asserts fun l => ?_⟩
  · rintro rfl l hl
    exact of_decide_eq_true ((asserts_wordOf_ht l).symm.trans hl)
  · rw [asserts_wordOf_ht, Bool.eq_iff_iff, decide_eq_true_iff]
    exact ⟨alone l, fun hl => hl ▸ hht⟩

/-! ## The eight conditions -/

theorem admitted_iff : admitted w = true ↔ noOpposedStrobes w = true ∧ oneDataDriver w = true ∧ oneAddressDriver w = true
    ∧ readersDriven w = true ∧ noPushWithPop w = true ∧ noLatchWithAccess w = true ∧ aluCodeDefined w = true
    ∧ haltAlone w = true := by
  simp only [admitted, Bool.and_eq_true, and_assoc]

theorem tickWord_of_not_admitted (hw : w ≠ 0) (ha : admitted w = false) (s : State) :
    tickWord w s = .refused (.notAdmitted w) := if_pos ⟨hw, ha⟩

/-- Settles O50: each check is its condition; the refusal is the first thing a tick decides about its word. -/
theorem admittedIsTheEightConditions : Obligations.AdmittedIsTheEightConditions := by
  refine ⟨fun w => ?_, fun rom s w hs hrom hw ha => ?_⟩
  · dsimp only
    rw [admitted_iff, noOpposedStrobes_iff, oneDataDriver_iff, oneAddressDriver_iff, readersDriven_iff, noPushWithPop_iff,
      noLatchWithAccess_iff, aluCodeDefined_iff, haltAlone_iff]
  · rw [tick_of_running hs hrom, tickWord_of_not_admitted hw ha]

end Sys2Proof.Machine
end

section
/-! The datapath on an admitted word (spec/41_control_and_tick.md R165 to R182): at most one driver puts a value on each bus, every
reader finds it there, and so each stage of the tick is one record update. -/

namespace Sys2Proof.Machine

variable {w : ControlWord} {s t u : State} {rom : Rom} {data : Option Byte} {address : Option Word} {v : Byte} {x : Word}

/-! ## The two buses -/

/-- The byte a tick has on the data bus (R37): that of its one driver. -/
def dataBus (w : ControlWord) (s : State) : Byte :=
  if asserts w .ao then s.a else if asserts w .bo then s.b else if asserts w .ro then readByte s s.mar
  else if asserts w .so && !asserts w .sa then (topCell s).extractLsb' 0 8
  else ((aluOpOfCode (aluCode w)).map (aluResult · s.a s.b)).getD 0

/-- The word a tick has on the address bus (R37): that of its one driver. -/
def addressBus (w : ControlWord) (s : State) : Word :=
  if asserts w .co then s.pc else if asserts w .io then busOperand s else topCell s

/-- A bus with a value on it once it is driven. -/
def busWhen {α : Type} (driven : Bool) (v : α) : Option α := if driven then some v else none

theorem busWhen_of_driven {α : Type} {driven : Bool} (h : driven = true) (v : α) : busWhen driven v = some v := if_pos h

/-- The codes that R153 condition 7 leaves are 0000 and those of the operations. -/
theorem aluOpOfCode_isSome (hcode : aluCodeDefined w = true) : (aluOpOfCode (aluCode w)).isSome = (aluCode w != 0) := by
  have codes : ∀ code : Nibble, code < 0xD#4 → (aluOpOfCode code).isSome = (code != 0) := by decide
  exact codes _ (of_decide_eq_true hcode)

/-- Steps 3 and 4: the ALU, A or B drives the data bus. -/
theorem dataBus_afterDrive (hone : oneDataDriver w = true) (hcode : aluCodeDefined w = true) :
    (if asserts w .bo then some s.b else if asserts w .ao then some s.a
      else (aluOpOfCode (aluCode w)).map (aluResult · s.a s.b)) = busWhen (dataDrivenEarly w) (dataBus w s) := by
  obtain ⟨aluAlone, aoAlone, -⟩ := dataDrivers_exclude hone
  have isOp := aluOpOfCode_isSome hcode
  cases bo : asserts w .bo with
  | true =>
    have ao : asserts w .ao = false := by simpa [bo] using mt aoAlone
    simp [busWhen, dataBus, dataDrivenEarly, ao, bo]
  | false =>
    cases ao : asserts w .ao with
    | true => simp [busWhen, dataBus, dataDrivenEarly, ao]
    | false =>
      cases op : aluOpOfCode (aluCode w) with
      | none =>
        have code : aluCode w = 0 := by simpa [op] using isOp
        simp [busWhen, dataDrivenEarly, ao, bo, code]
      | some o =>
        have code : aluCode w ≠ 0 := aluCode_ne_zero_of_op op
        obtain ⟨-, -, ro, pop⟩ := aluAlone code
        simpa [busWhen, dataBus, dataDrivenEarly, ao, bo, ro, pop, op] using code

/-- Step 5: RAM drives the data bus where nothing did before. -/
theorem dataBus_afterRam (hone : oneDataDriver w = true) :
    (if asserts w .ro then some (readByte s s.mar) else busWhen (dataDrivenEarly w) (dataBus w s))
      = busWhen (dataDrivenEarly w || asserts w .ro) (dataBus w s) := by
  obtain ⟨-, aoAlone, boAlone, -⟩ := dataDrivers_exclude hone
  cases ro : asserts w .ro with
  | true =>
    have ao : asserts w .ao = false := by simpa [ro] using mt aoAlone
    have bo : asserts w .bo = false := by simpa [ro] using mt boAlone
    simp [busWhen, dataBus, ao, bo, ro]
  | false => simp

/-- Step 6: an 8-bit pop drives the data bus where nothing did before. -/
theorem dataBus_afterPop (hone : oneDataDriver w = true) :
    (if asserts w .so && !asserts w .sa then some ((topCell s).extractLsb' 0 8)
      else busWhen (dataDrivenEarly w || asserts w .ro) (dataBus w s))
      = busWhen (dataDrivenEarly w || asserts w .ro || (asserts w .so && !asserts w .sa)) (dataBus w s) := by
  obtain ⟨-, aoAlone, boAlone, roAlone⟩ := dataDrivers_exclude hone
  cases pop : asserts w .so && !asserts w .sa with
  | true =>
    have ao : asserts w .ao = false := by simpa [pop] using mt aoAlone
    have bo : asserts w .bo = false := by simpa [pop] using mt boAlone
    have ro : asserts w .ro = false := by simpa [pop] using mt roAlone
    simp [busWhen, dataBus, ao, bo, ro, pop]
  | false => simp

/-- Step 4: PC or the operand drives the address bus. -/
theorem addressBus_afterDrive (hone : oneAddressDriver w = true) :
    (if asserts w .io then some (busOperand s) else if asserts w .co then some s.pc else none)
      = busWhen (asserts w .co || asserts w .io) (addressBus w s) := by
  obtain ⟨coAlone, -⟩ := addressDrivers_exclude hone
  cases io : asserts w .io with
  | true =>
    have co : asserts w .co = false := by simpa [io] using mt coAlone
    simp [busWhen, addressBus, co, io]
  | false => cases co : asserts w .co <;> simp [busWhen, addressBus, co]

/-- Step 6: a 12-bit pop drives the address bus where nothing did before. -/
theorem addressBus_afterPop (hone : oneAddressDriver w = true) :
    (if asserts w .so && asserts w .sa then some (topCell s) else busWhen (asserts w .co || asserts w .io) (addressBus w s))
      = busWhen (asserts w .co || asserts w .io || (asserts w .so && asserts w .sa)) (addressBus w s) := by
  obtain ⟨coAlone, ioAlone⟩ := addressDrivers_exclude hone
  cases pop : asserts w .so && asserts w .sa with
  | true =>
    have co : asserts w .co = false := by simpa [pop] using mt coAlone
    have io : asserts w .io = false := by simpa [pop] using mt ioAlone
    simp [busWhen, addressBus, co, io]
  | false => simp

/-! ## What each stage does to the state -/

/-- Step 3: the flags of the operation selected, if there is one (R165). -/
def aluFlags (w : ControlWord) (s : State) : State :=
  { s with
    cf := ((aluOpOfCode (aluCode w)).bind (aluCarry · s.a s.b)).getD s.cf
    zf := ((aluOpOfCode (aluCode w)).map (fun o => decide ((aluResult o s.a s.b).toNat = 0))).getD s.zf
    sf := ((aluOpOfCode (aluCode w)).map (fun o => decide (128 ≤ (aluResult o s.a s.b).toNat))).getD s.sf }

/-- Step 5: the address latch and the store, with a byte and a word on the buses (R171, R173). -/
def ramCycle (w : ControlWord) (v : Byte) (x : Word) (s : State) : State :=
  { s with
    mar := if asserts w .mi then x else s.mar
    ram := if asserts w .ri then Memory.write s.ram s.mar.toNat v else s.ram }

/-- Step 6: a push of the byte or the word on the buses, or a pop (R174, R175). -/
def stackCycle (w : ControlWord) (v : Byte) (x : Word) (s : State) : State :=
  { s with
    sp := if asserts w .si then s.sp + 1 else if asserts w .so then s.sp - 1 else s.sp
    stk := if asserts w .si then
        s.stk.set s.sp.toNat (if asserts w .sa then x else Config.freeNibble s.freeCount ++ v) s.sp.isLt
      else s.stk
    freeCount := if asserts w .si && !asserts w .sa then s.freeCount + 1 else s.freeCount }

/-- Step 7: the register writes (R176, R177). -/
def registerWrites (w : ControlWord) (v : Byte) (s : State) : State :=
  { s with
    a := if asserts w .ai then v else s.a
    b := if asserts w .bi then v else s.b
    ir := if asserts w .ii then v else s.ir
    ir2 := if asserts w .xi then v else s.ir2
    out := if asserts w .oi then v else s.out
    outTrace := if asserts w .oi then v :: s.outTrace else s.outTrace
    screenPtr := if asserts w .pi then v else s.screenPtr
    screenEvents := (if asserts w .pi then [.pi v] else []) ++ s.screenEvents }

/-- Step 8: PC (R178, R179). -/
def pcWrite (w : ControlWord) (x : Word) (s : State) : State :=
  { s with pc := if asserts w .ce then s.pc + 1 else if asserts w .jp then x else s.pc }

/-- Step 9: the refresh request (R180). -/
def refreshRequest (w : ControlWord) (s : State) : State :=
  { s with screenEvents := (if asserts w .rf then [ScreenEvent.rf] else []) ++ s.screenEvents }

/-- Steps 3 to 9 in their order, with one value on each bus (R181). -/
def linesApplied (w : ControlWord) (s : State) : State :=
  let v := dataBus w s
  let x := addressBus w s
  refreshRequest w (pcWrite w x (registerWrites w v (stackCycle w v x (ramCycle w v x (aluFlags w s)))))

theorem readByte_ramCycle (w : ControlWord) (v : Byte) (x y : Word) (s : State) :
    readByte (ramCycle w v x s) y = if asserts w .ri = true ∧ y = s.mar then v else readByte s y := by
  cases ri : asserts w .ri with
  | true =>
    have stored : (ramCycle w v x s).ram = (writeByte s.mar v s).ram := if_pos ri
    simp [readByte_congr stored]
  | false =>
    have kept : (ramCycle w v x s).ram = s.ram := if_neg (Bool.eq_false_iff.mp ri)
    simp [readByte_congr kept]

theorem stackCycle_stk_of_push (si : asserts w .si = true) : (stackCycle w v x s).stk =
    s.stk.set s.sp.toNat (if asserts w .sa then x else Config.freeNibble s.freeCount ++ v) s.sp.isLt := if_pos si

theorem stackCycle_cell_other {k : BitVec 8} (h : k ≠ s.sp ∨ asserts w .si = false) :
    (stackCycle w v x s).stk[k.toNat]'k.isLt = s.stk[k.toNat]'k.isLt := by
  cases si : asserts w .si with
  | true =>
    have otherCell : s.sp.toNat ≠ k.toNat := fun he => h.elim (· (BitVec.eq_of_toNat_eq he.symm)) (by simp [si])
    simp only [stackCycle_stk_of_push si, Vector.getElem_set_ne _ _ otherCell]
  | false =>
    have kept : (stackCycle w v x s).stk = s.stk := if_neg (Bool.eq_false_iff.mp si)
    simp only [kept]

theorem stackCycle_cell_pushWord (si : asserts w .si = true) (sa : asserts w .sa = true) :
    (stackCycle w v x s).stk[s.sp.toNat]'s.sp.isLt = x := by
  simp [stackCycle_stk_of_push si, sa]

theorem stackCycle_cell_pushByte (si : asserts w .si = true) (sa : asserts w .sa = false) :
    ((stackCycle w v x s).stk[s.sp.toNat]'s.sp.isLt).extractLsb' 0 8 = v := by
  simp [stackCycle_stk_of_push si, sa]

/-! ## The stages on driven buses -/

/-- A line that reads a driven data bus: `g` is the write as one record update under the line. -/
theorem fromData_line {line : Bool} {f : Byte → State → State} (g : Bool → State → State) (hon : ∀ u, g true u = f v u)
    (hoff : ∀ u, g false u = u) (h : line = true → data = some v) :
    fromData line f ⟨u, data, address⟩ = some ⟨g line u, data, address⟩ := by
  cases line
  · rw [hoff]; rfl
  · rw [hon, h rfl]; rfl

/-- A line that reads a driven address bus, likewise. -/
theorem fromAddress_line {line : Bool} {f : Word → State → State} (g : Bool → State → State) (hon : ∀ u, g true u = f x u)
    (hoff : ∀ u, g false u = u) (h : line = true → address = some x) :
    fromAddress line f ⟨u, data, address⟩ = some ⟨g line u, data, address⟩ := by
  cases line
  · rw [hoff]; rfl
  · rw [hon, h rfl]; rfl

theorem aluStage_of_defined (hcode : aluCodeDefined w = true) :
    aluStage w ⟨s, none, none⟩ = some ⟨aluFlags w s, (aluOpOfCode (aluCode w)).map (aluResult · s.a s.b), none⟩ := by
  have isOp := aluOpOfCode_isSome hcode
  unfold aluFlags
  cases op : aluOpOfCode (aluCode w) with
  | none => exact aluStage_of_code_zero (by simpa [op] using isOp) _
  | some o =>
    have zero : (aluResult o s.a s.b == 0) = decide ((aluResult o s.a s.b).toNat = 0) := beq_zero_eq_decide _
    have sign : (aluResult o s.a s.b).getLsbD 7 = decide (128 ≤ (aluResult o s.a s.b).toNat) := getLsbD_top _
    simp only [aluStage_of_op op, setFlags, Option.bind_some, Option.map_some, Option.getD_some, zero, sign]

theorem driveStage_eq : driveStage w ⟨u, data, address⟩ =
    ⟨u, if asserts w .bo then some u.b else if asserts w .ao then some u.a else data,
      if asserts w .io then some (busOperand u) else if asserts w .co then some u.pc else address⟩ := by
  unfold driveStage
  cases asserts w .co <;> cases asserts w .ao <;> cases asserts w .bo <;> cases asserts w .io <;> rfl

theorem ramStage_of_driven (hmi : asserts w .mi = true → address = some x)
    (hri : asserts w .ri = true → (if asserts w .ro then some (readByte u u.mar) else data) = some v) :
    ramStage w ⟨u, data, address⟩ =
      some ⟨ramCycle w v x u, if asserts w .ro then some (readByte u u.mar) else data, address⟩ := by
  rw [ramStage, fromAddress_line (fun on u => { u with mar := if on then x else u.mar }) (fun _ => rfl) (fun _ => rfl) hmi,
    Option.bind_some]
  cases ro : asserts w .ro <;> rw [ro] at hri <;>
    exact fromData_line (fun on u' => { u' with ram := if on then Memory.write u'.ram u.mar.toNat v else u'.ram })
      (fun _ => rfl) (fun _ => rfl) hri

theorem stackStage_of_driven (hpop : noPushWithPop w = true)
    (hbyte : (asserts w .si && !asserts w .sa) = true → data = some v)
    (hword : (asserts w .si && asserts w .sa) = true → address = some x) :
    stackStage w ⟨u, data, address⟩ = some
      ⟨stackCycle w v x u, if asserts w .so && !asserts w .sa then some ((topCell u).extractLsb' 0 8) else data,
        if asserts w .so && asserts w .sa then some (topCell u) else address⟩ := by
  rw [stackStage, fromAddress_line (fun on u => if on then pushWord x u else u) (fun _ => rfl) (fun _ => rfl) hword,
    Option.bind_some, fromData_line (fun on u => if on then pushByte v u else u) (fun _ => rfl) (fun _ => rfl) hbyte,
    Option.map_some]
  unfold popStage stackCycle
  cases si : asserts w .si with
  | true =>
    have so : asserts w .so = false := by simpa [si] using noPushWithPop_iff.mp hpop
    rw [so]
    cases asserts w .sa <;> rfl
  | false => cases asserts w .so <;> cases asserts w .sa <;> rfl

theorem registerStage_of_driven
    (h : (asserts w .ai || asserts w .bi || asserts w .ii || asserts w .xi || asserts w .oi || asserts w .pi) = true →
      data = some v) :
    registerStage w ⟨u, data, address⟩ = some ⟨registerWrites w v u, data, address⟩ := by
  simp only [Bool.or_eq_true, or_imp] at h
  obtain ⟨⟨⟨⟨⟨ai, bi⟩, ii⟩, xi⟩, oi⟩, pi⟩ := h
  rw [registerStage,
    fromData_line (fun on u => { u with a := if on then v else u.a }) (fun _ => rfl) (fun _ => rfl) ai, Option.bind_some,
    fromData_line (fun on u => { u with b := if on then v else u.b }) (fun _ => rfl) (fun _ => rfl) bi, Option.bind_some,
    fromData_line (fun on u => { u with ir := if on then v else u.ir }) (fun _ => rfl) (fun _ => rfl) ii, Option.bind_some,
    fromData_line (fun on u => { u with ir2 := if on then v else u.ir2 }) (fun _ => rfl) (fun _ => rfl) xi, Option.bind_some,
    fromData_line (fun on u => { u with
        out := if on then v else u.out, outTrace := if on then v :: u.outTrace else u.outTrace })
      (fun _ => rfl) (fun _ => rfl) oi, Option.bind_some,
    fromData_line (fun on u => { u with
        screenPtr := if on then v else u.screenPtr, screenEvents := (if on then [.pi v] else []) ++ u.screenEvents })
      (fun _ => rfl) (fun _ => rfl) pi]
  rfl

theorem pcStage_of_driven (hstrobes : noOpposedStrobes w = true) (hjp : asserts w .jp = true → address = some x) :
    pcStage w ⟨u, data, address⟩ = some ⟨pcWrite w x u, data, address⟩ := by
  obtain ⟨-, notBoth⟩ := noOpposedStrobes_iff.mp hstrobes
  unfold pcStage pcWrite
  cases ce : asserts w .ce with
  | true =>
    have jp : asserts w .jp = false := by simpa [ce] using notBoth
    rw [jp]
    rfl
  | false => exact fromAddress_line (fun on u => { u with pc := if on then x else u.pc }) (fun _ => rfl) (fun _ => rfl) hjp

theorem refreshStage_eq : refreshStage w ⟨u, data, address⟩ = ⟨refreshRequest w u, data, address⟩ := by
  unfold refreshStage refreshRequest
  cases asserts w .rf <;> rfl

/-! ## The datapath -/

/-- A tick under way, each bus with the value it has in this tick once it is driven. -/
def drivenCycle (w : ControlWord) (s : State) (dataDriven addressDriven : Bool) (u : State) : Cycle :=
  ⟨u, busWhen dataDriven (dataBus w s), busWhen addressDriven (addressBus w s)⟩

theorem driveStage_drivenCycle (hdata : oneDataDriver w = true) (haddress : oneAddressDriver w = true)
    (hcode : aluCodeDefined w = true) :
    driveStage w ⟨aluFlags w s, (aluOpOfCode (aluCode w)).map (aluResult · s.a s.b), none⟩ =
      drivenCycle w s (dataDrivenEarly w) (asserts w .co || asserts w .io) (aluFlags w s) := by
  rw [driveStage_eq, drivenCycle, ← dataBus_afterDrive hdata hcode, ← addressBus_afterDrive haddress]
  rfl

theorem ramStage_drivenCycle (hdata : oneDataDriver w = true) (hreaders : readersDriven w = true) :
    ramStage w (drivenCycle w s (dataDrivenEarly w) (asserts w .co || asserts w .io) (aluFlags w s)) =
      some (drivenCycle w s (dataDrivenEarly w || asserts w .ro) (asserts w .co || asserts w .io)
        (ramCycle w (dataBus w s) (addressBus w s) (aluFlags w s))) := by
  obtain ⟨hri, -, -, hmi, -⟩ := readersDriven_iff_driven.mp hreaders
  rw [drivenCycle, ramStage_of_driven (u := aluFlags w s) (fun mi => busWhen_of_driven (hmi (by simp [mi])) _)
    (fun ri => (dataBus_afterRam (s := s) hdata).trans (busWhen_of_driven (by simp [hri ri]) _)), drivenCycle,
    ← dataBus_afterRam hdata]
  rfl

theorem stackStage_drivenCycle (hdata : oneDataDriver w = true) (haddress : oneAddressDriver w = true)
    (hreaders : readersDriven w = true) (hpop : noPushWithPop w = true) (htop : topCell u = topCell s) :
    stackStage w (drivenCycle w s (dataDrivenEarly w || asserts w .ro) (asserts w .co || asserts w .io) u) =
      some (drivenCycle w s (dataDrivenEarly w || asserts w .ro || (asserts w .so && !asserts w .sa))
        (asserts w .co || asserts w .io || (asserts w .so && asserts w .sa))
        (stackCycle w (dataBus w s) (addressBus w s) u)) := by
  obtain ⟨-, hsi, -, hmi, -⟩ := readersDriven_iff_driven.mp hreaders
  rw [drivenCycle, stackStage_of_driven hpop (fun push => busWhen_of_driven (hsi push) _)
    (fun push => busWhen_of_driven (hmi (by simp [push])) _), htop, dataBus_afterPop hdata, addressBus_afterPop haddress,
    drivenCycle]

/-- R165 to R182: on an admitted word the datapath does what each line says. -/
theorem datapath_of_admitted (ha : admitted w = true) (s : State) : datapath w s = some (linesApplied w s) := by
  obtain ⟨hstrobes, hdata, haddress, hreaders, hpop, -, hcode, -⟩ := admitted_iff.mp ha
  obtain ⟨-, -, hreg, -, hjp⟩ := readersDriven_iff_driven.mp hreaders
  have sameTop : topCell (ramCycle w (dataBus w s) (addressBus w s) (aluFlags w s)) = topCell s := rfl
  rw [datapath, aluStage_of_defined hcode, Option.bind_some, driveStage_drivenCycle hdata haddress hcode,
    ramStage_drivenCycle hdata hreaders, Option.bind_some,
    stackStage_drivenCycle hdata haddress hreaders hpop sameTop,
    Option.bind_some, drivenCycle, registerStage_of_driven (fun reads => busWhen_of_driven (hreg reads) _), Option.bind_some,
    pcStage_of_driven hstrobes (fun jp => busWhen_of_driven (hjp jp) _), Option.map_some, refreshStage_eq, linesApplied]

/-! ## The tick -/

theorem tick_of_admitted (hs : s.halted = false) (hstop : s.hostStop = false) (hrom : rom (romIndex s) = some w)
    (ha : admitted w = true) (hht : asserts w .ht = false) : tick rom s = .next (linesApplied w (controlStep w s)) := by
  rw [tick_of_running hs hrom, tickWord_running ha hht hstop (datapath_of_admitted ha _)]

/-- Settles O51: the tick is the control step and then the lines, which do not read what the control step writes. -/
theorem admittedTickFollowsTheLines : Obligations.AdmittedTickFollowsTheLines := by
  intro rom s w hs hstop hrom ha hht
  refine ⟨_, tick_of_admitted hs hstop hrom ha hht, ?_⟩
  rw [controlStep_eq]
  refine ⟨rfl, rfl, hs, hstop, rfl, rfl, rfl, rfl, rfl, rfl, rfl, rfl, rfl, rfl, rfl,
    fun y => readByte_ramCycle w (dataBus w s) (addressBus w s) y (aluFlags w s), rfl, fun _ other => stackCycle_cell_other other,
    fun si sa => stackCycle_cell_pushWord si sa, fun si sa => stackCycle_cell_pushByte si sa,
    (List.append_assoc _ _ _).symm, rfl, fun notByte => ?_⟩
  have noDraw : (asserts w .si && !asserts w .sa) = false := by obtain h | h := notByte <;> simp [h]
  exact if_neg (Bool.eq_false_iff.mp noDraw)

/-- R161 to R163: CW and STEP after a tick that answers are those of the control step, whether it halts or not. -/
theorem tickWord_cw_microStep (h : tickWord w s = .next t) :
    t.cw = (controlStep w s).cw ∧ t.microStep = (controlStep w s).microStep := by
  obtain ⟨hw, ⟨-, rfl⟩ | ⟨-, hd⟩⟩ := tickWord_next h
  · exact ⟨rfl, rfl⟩
  · have ha : admitted w = true := hw.elim (fun hz => hz ▸ rfl) id
    obtain rfl : linesApplied w (controlStep w s) = t := Option.some.inj ((datapath_of_admitted ha _).symm.trans hd)
    exact ⟨rfl, rfl⟩

/-- Settles O48: the control step of a non-zero word. -/
theorem nonZeroWordIncrementsStep : Obligations.NonZeroWordIncrementsStep := by
  intro rom s t w hrom hw h
  obtain ⟨hcw, hstep⟩ := tickWord_cw_microStep (tick_next hrom h).2
  rw [controlStep_eq] at hcw hstep
  refine ⟨hcw, ?_⟩
  rw [hstep, if_neg hw, BitVec.toNat_add]
  rfl

end Sys2Proof.Machine
end

section
/-! The microcode ROM (spec/42_microcode_rom.md R204 to R244): the fetch with any well-formed ROM, and the frames of the reference
ROM as the words the spec prints, each the micro-program of its byte in the tables of the three formats. -/

namespace Sys2Proof.Machine

variable {rom : Rom} {s : State} {ir : Byte} {cls n : Nibble} {cf zf sf : Bool} {p : List ControlWord} {w : ControlWord}

/-! ## The fetch with any well-formed ROM -/

theorem tick_fetchAddress_of_wellFormed (hrom : rom.WellFormed) (hr : ReadyToFetch s) :
    tick rom s = .next (afterFetchAddress s) := by
  obtain ⟨hh, hs, hm⟩ := hr
  have hw : rom (romIndex s) = some 0x000021 := by
    rw [romIndex, hm]
    exact (hrom.1 ..).1
  rw [tick_of_running hh hw]
  simpa [hm, afterFetchAddress] using tickWord_co_mi s hs

theorem tick_fetchByte_of_wellFormed (hrom : rom.WellFormed) (hr : ReadyToFetch s) :
    tick rom (afterFetchAddress s) = .next (afterFetch s) := by
  obtain ⟨hh, hs, -⟩ := hr
  have hw : rom (romIndex (afterFetchAddress s)) = some 0x00008C := (hrom.1 ..).2
  rw [tick_of_running (s := afterFetchAddress s) hh hw]
  exact tickWord_ro_ii_ce _ hs

/-- D20: PC wraps at the end of RAM. -/
theorem pc_succ (pc : Word) : pc + 1 = BitVec.ofNat 12 ((pc.toNat + 1) % 4096) := by
  apply BitVec.eq_of_toNat_eq
  simp

/-- Settles O52: the two words that R204 requires, one tick each. -/
theorem fetchPairOfAnyRom : Obligations.FetchPairOfAnyRom := by
  intro rom s hrom hr
  rw [ticks_succ, tick_fetchAddress_of_wellFormed hrom hr]
  simp only [ticks_succ, tick_fetchByte_of_wellFormed hrom hr, ticks_zero, afterFetch, pc_succ]

/-! ## The frame of a byte -/

/-- R207: a frame with a sequence is its words, then zero words. -/
theorem romRef_of_microProgram (h : microProgram ir cf zf sf = some p) (k : BitVec 3) :
    romRef (indexOf k ir cf zf sf) = some (p.getD k.toNat 0) := by
  rw [romRef_indexOf, microWord, h]

/-- R244: the frame of a byte without a sequence is the fetch pair alone. -/
theorem romRef_of_no_microProgram (h : microProgram ir cf zf sf = none) (k : BitVec 3) :
    romRef (indexOf k ir cf zf sf) = fetchPair[k.toNat]? := by
  rw [romRef_indexOf, microWord, h]

/-- The sequence of an addressed class, under any address nibble (R91, R207). -/
theorem microProgram_of_lookup_addressed (h : lookupNibble cls (addressedPrograms cf zf sf) = some p) (ah : Nibble) :
    microProgram (cls ++ ah) cf zf sf = some p := by
  have hF : cls ≠ 0xF#4 := by rintro rfl; cases h
  have hE : cls ≠ 0xE#4 := by rintro rfl; cases h
  rw [microProgram, highNibble_append, if_neg hF, if_neg hE, h]

/-- The sequence of an immediate opcode (R92, R207). -/
theorem microProgram_of_lookup_immediate (h : lookupNibble n immediatePrograms = some p) :
    microProgram (0xE#4 ++ n) cf zf sf = some p := by
  rw [microProgram, highNibble_append, if_neg (by decide), if_pos rfl, lowNibble_append, h]

/-- The sequence of a nullary opcode (R93, R207). -/
theorem microProgram_of_lookup_nullary (h : lookupNibble n nullaryPrograms = some p) :
    microProgram (0xF#4 ++ n) cf zf sf = some p := by
  rw [microProgram, highNibble_append, if_pos rfl, lowNibble_append, h]

/-- The frames of the bytes a list names, from the sequence of each row of the list. -/
theorem romRef_of_mem_rows {α β : Type} {rows : List (α × β)} {byte : α → Byte} {sequence : β → List ControlWord} {a : α} {b : β}
    (hrow : (a, b) ∈ rows) (h : ∀ row ∈ rows, microProgram (byte row.1) cf zf sf = some (sequence row.2)) (k : BitVec 3) :
    romRef (indexOf k (byte a) cf zf sf) = some ((sequence b).getD k.toNat 0) :=
  romRef_of_microProgram (h _ hrow) k

/-! ## The micro-programs, word for word -/

/-- Settles O56: the sequences of the eight classes, row by row. -/
theorem addressedDataMicroPrograms : Obligations.AddressedDataMicroPrograms := by
  intro cls tail ah k cf zf sf hrow
  refine romRef_of_mem_rows (byte := (· ++ ah)) hrow ?_ k
  refine fun row hmem => microProgram_of_lookup_addressed ?_ ah
  revert row
  simp only [List.forall_mem_cons]
  exact ⟨rfl, rfl, rfl, rfl, rfl, rfl, rfl, rfl, List.forall_mem_nil _⟩

/-- Settles O58: the sequences of the seven bytes, row by row. -/
theorem immediateMicroPrograms : Obligations.ImmediateMicroPrograms := by
  intro ir tail k cf zf sf hrow
  refine romRef_of_mem_rows (byte := id) hrow ?_ k
  simp only [List.forall_mem_cons]
  exact ⟨rfl, rfl, rfl, rfl, rfl, rfl, rfl, List.forall_mem_nil _⟩

/-- Settles O59: the sequences of the ten bytes, row by row. -/
theorem nullaryMicroPrograms : Obligations.NullaryMicroPrograms := by
  intro ir word k cf zf sf hrow
  refine romRef_of_mem_rows (byte := id) (sequence := fun word => [0x000021#24, 0x00008C#24] ++ [word]) hrow ?_ k
  simp only [List.forall_mem_cons]
  exact ⟨rfl, rfl, rfl, rfl, rfl, rfl, rfl, rfl, rfl, rfl, List.forall_mem_nil _⟩

/-- R244: a reserved byte has no sequence. -/
theorem microProgram_of_reserved (h : reservedByte ir = true) (cf zf sf : Bool) : microProgram ir cf zf sf = none :=
  microProgram_of_undecodable ((decodePair_eq_none_iff ir 0).mpr h) cf zf sf

/-- Settles O60: the sequences of the four bytes, row by row, and the frame of a byte that has none. -/
theorem lastMicroProgramsAndReservedFrames : Obligations.LastMicroProgramsAndReservedFrames := by
  refine fun ir k cf zf sf => ⟨fun tail hrow => ?_, fun hr => ?_⟩
  · refine romRef_of_mem_rows (byte := id) hrow ?_ k
    simp only [List.forall_mem_cons]
    exact ⟨rfl, rfl, rfl, rfl, List.forall_mem_nil _⟩
  · have hpair : fetchPair = [0x000021#24, 0x00008C#24] := by simp [fetchPair]
    rw [romRef_of_no_microProgram (microProgram_of_reserved hr cf zf sf), hpair]

/-- Settles O57: the sequences of the five classes; a branch's is that of its flag. -/
theorem transferMicroPrograms : Obligations.TransferMicroPrograms := by
  intro ah k cf zf sf
  have frame {cls : Nibble} {p : List ControlWord} (h : lookupNibble cls (addressedPrograms cf zf sf) = some p) :
      romRef (indexOf k (cls ++ ah) cf zf sf) = some (p.getD k.toNat 0) :=
    romRef_of_microProgram (microProgram_of_lookup_addressed h ah) k
  have branch (flag : Bool) : some ((branchProgram flag).getD k.toNat 0)
      = if flag then some (jumpProgram.getD k.toNat 0) else some ((fetchPair ++ [wordOf [.ce]]).getD k.toNat 0) := by
    cases flag <;> rfl
  exact ⟨frame rfl, (frame rfl).trans (branch cf), (frame rfl).trans (branch zf), (frame rfl).trans (branch sf), frame rfl⟩

/-! ## The words of the whole ROM -/

/-- The tables of the three formats under a flag state, as one. -/
def sequenceRows (cf zf sf : Bool) : List (Nibble × List ControlWord) :=
  addressedPrograms cf zf sf ++ immediatePrograms ++ nullaryPrograms

/-- The words of all sequences under a flag state. -/
def sequenceWords (cf zf sf : Bool) : List ControlWord := (sequenceRows cf zf sf).flatMap Prod.snd

theorem mem_sequenceRows_of_microProgram (h : microProgram ir cf zf sf = some p) : ∃ n, (n, p) ∈ sequenceRows cf zf sf := by
  rw [microProgram] at h
  split at h
  · exact ⟨_, List.mem_append_right _ (lookupNibble_mem h)⟩
  · split at h
    · exact ⟨_, List.mem_append_left _ (List.mem_append_right _ (lookupNibble_mem h))⟩
    · exact ⟨_, List.mem_append_left _ (List.mem_append_left _ (lookupNibble_mem h))⟩

/-- In a table that names each nibble once, a lookup answers with the row of its nibble. -/
theorem lookupNibble_of_mem {α : Type} {m : List (Nibble × α)} {v : α} (hnodup : (m.map Prod.fst).Nodup) (h : (n, v) ∈ m) :
    lookupNibble n m = some v := by
  cases hl : lookupNibble n m with
  | none => exact absurd (List.mem_map.mpr ⟨_, h, rfl⟩) (lookupNibble_eq_none.mp hl)
  | some u =>
    have hrow : (n, u) = (n, v) := List.inj_on_of_nodup_map hnodup (lookupNibble_mem hl) h rfl
    rw [(Prod.mk.inj hrow).2]

/-- Every row of the tables is the sequence of some byte. -/
theorem exists_microProgram_of_mem_sequenceRows (h : (n, p) ∈ sequenceRows cf zf sf) :
    ∃ ir, microProgram ir cf zf sf = some p := by
  obtain ⟨addressedOnce, immediateOnce, nullaryOnce⟩ := opcode_maps_have_no_overlap
  rw [sequenceRows, List.mem_append, List.mem_append] at h
  obtain (haddressed | himmediate) | hnullary := h
  · exact ⟨n ++ 0#4, microProgram_of_lookup_addressed (lookupNibble_of_mem addressedOnce haddressed) 0⟩
  · exact ⟨_, microProgram_of_lookup_immediate (lookupNibble_of_mem immediateOnce himmediate)⟩
  · exact ⟨_, microProgram_of_lookup_nullary (lookupNibble_of_mem nullaryOnce hnullary)⟩

/-- The fetch pair, all that the frame of a reserved byte holds, is in the sequences of the other bytes too. -/
theorem fetchPair_subset_sequenceWords (cf zf sf : Bool) : fetchPair ⊆ sequenceWords cf zf sf := by
  have hrow : (0x1#4, toMemoryOperand ++ [wordOf [.ro, .ai]]) ∈ sequenceRows cf zf sf := List.mem_cons_self
  exact fun w hw => List.mem_flatMap.mpr ⟨_, hrow, List.mem_append_left _ (List.mem_append_left _ (List.mem_append_left _ hw))⟩

theorem mem_of_getD_eq {α : Type} {l : List α} {k : Nat} {d v : α} (h : l.getD k d = v) (hv : v ≠ d) : v ∈ l := by
  obtain hk | hk := Nat.lt_or_ge k l.length
  · rw [List.getD_eq_getElem _ _ hk] at h
    exact h ▸ List.getElem_mem hk
  · rw [List.getD_eq_default _ _ hk] at h
    exact absurd h.symm hv

/-- R207, R244: what the reference ROM holds, but for zero words, is in some sequence. -/
theorem mem_sequenceWords_of_romRef {idx : RomIndex} (h : romRef idx = some w) (hw : w ≠ 0) :
    ∃ cf zf sf, w ∈ sequenceWords cf zf sf := by
  refine ⟨idx.getLsbD 11, idx.getLsbD 12, idx.getLsbD 13, ?_⟩
  rw [romRef, microWord] at h
  split at h
  case h_1 p hp =>
    obtain ⟨n, hrow⟩ := mem_sequenceRows_of_microProgram hp
    have hmem : w ∈ p := mem_of_getD_eq (Option.some.inj h) hw
    exact List.mem_flatMap.mpr ⟨_, hrow, hmem⟩
  case h_2 => exact fetchPair_subset_sequenceWords _ _ _ (List.mem_of_getElem? h)

/-- R207: every word of a sequence stands in the frame of its byte. -/
theorem exists_romRef_of_mem_sequenceWords (h : w ∈ sequenceWords cf zf sf) : ∃ idx, romRef idx = some w := by
  obtain ⟨⟨n, p⟩, hrow, hmem⟩ := List.mem_flatMap.mp h
  obtain ⟨ir, hp⟩ := exists_microProgram_of_mem_sequenceRows hrow
  obtain ⟨j, hj, rfl⟩ := List.getElem_of_mem hmem
  have hstep : (BitVec.ofNat 3 j).toNat = j := by
    have hshort : j < 8 := Nat.lt_of_lt_of_le hj (Nat.le_succ_of_le (microProgram_shape hp).2)
    exact Nat.mod_eq_of_lt hshort
  exact ⟨indexOf (BitVec.ofNat 3 j) ir cf zf sf, by rw [romRef_of_microProgram hp, hstep, List.getD_eq_getElem _ _ hj]⟩

/-- Settles O54: the first two words of every frame, and the check of R153 on every word of the sequences. -/
theorem referenceRomIsWellFormed : Obligations.ReferenceRomIsWellFormed := by
  refine ⟨fun ir cf zf sf => ?_, fun idx w h hw => ?_⟩
  · simp [microWord_of_fetch, fetchPair]
  · have hadmitted : ∀ cf zf sf, (sequenceWords cf zf sf).all admitted = true := by decide
    obtain ⟨cf, zf, sf, hmem⟩ := mem_sequenceWords_of_romRef h hw
    exact List.all_eq_true.mp (hadmitted cf zf sf) w hmem

/-- Settles O55: the ROM's words are those of the sequences, and each list of words holds the other; the sequences where no
branch is taken hold every word. -/
theorem referenceRomHoldsThirtyThreeWords : Obligations.ReferenceRomHoldsThirtyThreeWords := by
  refine ⟨rfl, by decide, fun idx w h hw => ?_, fun w hw => ?_⟩
  · obtain ⟨cf, zf, sf, hmem⟩ := mem_sequenceWords_of_romRef h hw
    refine (?_ : ∀ cf zf sf, sequenceWords cf zf sf ⊆ _) cf zf sf hmem
    decide +kernel
  · refine exists_romRef_of_mem_sequenceWords ((?_ : _ ⊆ sequenceWords false false false) hw)
    decide

end Sys2Proof.Machine
end

section
/-! The addressed data instructions (spec/43_addressed.md R250 to R258): the next state of each, with the result of the ALU ones as a
number, and its run in one step and in its ticks. -/

namespace Sys2Proof.Machine

variable {op : AluOp} {i : Instr} {s : State} {addr : Word} {r : Byte} {n : Nat} {c : Bool}

/-! ## What the instructions share -/

/-- R11, R389: every instruction runs from its bytes, in one step and in its number of ticks. -/
theorem exec_runsAs (i : Instr) (s : State) : RunsAs i (encode i) (tickCount s i) s :=
  ⟨rfl, fun hr hp => ⟨(stepIsTicksToTheBoundary s).trans (exec_toBoundary hr hp), exec_runsInTicks hr hp⟩⟩

/-- R135 to R137: the result in A, and ZF and SF read from it as a number. -/
theorem aluToA_eq_of_result (hr : aluResult op s.a s.b = r) (hn : (aluResult op s.a s.b).toNat = n)
    (hc : (aluCarry op s.a s.b).getD s.cf = c) :
    aluToA op s = { s with a := r, cf := c, zf := decide (n = 0), sf := decide (128 ≤ n) } := by
  subst hr hn hc
  simp only [aluToA, setFlags, beq_zero_eq_decide, getLsbD_top, Nat.reducePow]

/-- R212, R250: the same with the byte at the operand address in B. -/
theorem memoryToAlu_eq_of_result (hr : aluResult op s.a (readByte s addr) = r)
    (hn : (aluResult op s.a (readByte s addr)).toNat = n) (hc : (aluCarry op s.a (readByte s addr)).getD s.cf = c) :
    memoryToAlu op i addr s = .next { s with
      ir := firstByte i, ir2 := addr.extractLsb' 0 8, pc := s.pc + 2, mar := addr, b := readByte s addr,
      a := r, cf := c, zf := decide (n = 0), sf := decide (128 ≤ n), microStep := 0, cw := 0 } := by
  have h := aluToA_eq_of_result (s := { takeMemoryOperand i addr s with b := readByte s addr }) hr hn hc
  exact congrArg (fun t => Host.Outcome.next (endInstruction t)) h

theorem eq_ofNat_of_toNat_eq {v : Byte} (h : v.toNat = n) : v = BitVec.ofNat 8 n := by
  rw [← h, BitVec.ofNat_toNat, BitVec.setWidth_eq]

/-! ## The instructions -/

/-- Settles O14: the next state is the meaning's own record. -/
theorem ldaLoadsTheByte : Obligations.LdaLoadsTheByte :=
  fun addr s => ⟨rfl, exec_runsAs (.lda addr) s⟩

/-- Settles O15: RAM after the store is read at the operand address and at any other. -/
theorem staStoresTheByte : Obligations.StaStoresTheByte :=
  fun addr s => ⟨⟨_, rfl, rfl, (readByte_exec_sta rfl addr).trans (if_pos rfl),
    fun x hx => (readByte_exec_sta rfl x).trans (if_neg hx)⟩, exec_runsAs (.sta addr) s⟩

/-- Settles O16: the result and the carry are those of the sum (R121). -/
theorem addAddsTheMemoryByte : Obligations.AddAddsTheMemoryByte := by
  intro addr s sum
  have hn : (aluResult .add s.a (readByte s addr)).toNat = sum % 256 := aluResult_add_toNat ..
  have hc : aluCarry .add s.a (readByte s addr) = some (decide (256 ≤ sum)) := aluCarry_add ..
  exact ⟨memoryToAlu_eq_of_result (BitVec.eq_of_toNat_eq hn) hn (congrArg (·.getD s.cf) hc), exec_runsAs (.add addr) s⟩

/-- Settles O17: the result and the carry are those of the difference (R122), which is 0 between equal bytes only. -/
theorem subSubtractsTheMemoryByte : Obligations.SubSubtractsTheMemoryByte := by
  intro addr s m difference
  have hn : (aluResult .sub s.a m).toNat = difference := aluResult_sub_toNat ..
  have hc : aluCarry .sub s.a m = some (decide (m.toNat ≤ s.a.toNat)) := aluCarry_sub ..
  have hzero : s.a = m ↔ difference = 0 := by
    rw [← BitVec.toNat_inj]
    omega
  simp only [hzero]
  exact ⟨memoryToAlu_eq_of_result (eq_ofNat_of_toNat_eq hn) hn (congrArg (·.getD s.cf) hc), exec_runsAs (.sub addr) s⟩

/-- Settles O18: both results are the model's own, and neither operation has a carry (R125, R126). -/
theorem andOrCombineTheMemoryByte : Obligations.AndOrCombineTheMemoryByte :=
  fun addr s => ⟨memoryToAlu_eq_of_result rfl rfl rfl, exec_runsAs (.and addr) s,
    memoryToAlu_eq_of_result rfl rfl rfl, exec_runsAs (.or addr) s⟩

/-- Settles O19: the two results are the halves of one product (R130, R131). -/
theorem mullMulhMultiplyByTheMemoryByte : Obligations.MullMulhMultiplyByTheMemoryByte := by
  intro addr s product
  have hlow : (aluResult .mull s.a (readByte s addr)).toNat = product % 256 := aluResult_mull_toNat ..
  have hhigh : (aluResult .mulh s.a (readByte s addr)).toNat = product / 256 := aluResult_mulh_toNat ..
  exact ⟨memoryToAlu_eq_of_result (eq_ofNat_of_toNat_eq hlow) hlow rfl, exec_runsAs (.mull addr) s,
    memoryToAlu_eq_of_result (eq_ofNat_of_toNat_eq hhigh) hhigh rfl, exec_runsAs (.mulh addr) s⟩

end Sys2Proof.Machine
end

section
/-! Control transfer (spec/44_control_transfer.md R270 to R275): the next state of each instruction, and the return from a JSR. -/

namespace Sys2Proof.Machine

variable {s t : State} {target : Word}

/-! ## SP as a number, and the call stack around JSR and RET -/

/-- R174: SP after a push, modulo 256. -/
theorem sp_add_one (sp : BitVec 8) : sp + 1 = BitVec.ofNat 8 ((sp.toNat + 1) % 256) :=
  BitVec.eq_of_toNat_eq (by simp)

/-- R175: SP after a pop, modulo 256. -/
theorem sp_sub_one (sp : BitVec 8) : sp - 1 = BitVec.ofNat 8 ((sp.toNat + 255) % 256) := by
  bv_omega

/-- R274: a pop after the JSR would read the address of the instruction that follows it. -/
theorem topCell_exec_jsr (h : exec (.jsr target) s = .next t) : topCell t = s.pc + 2 := by
  cases h
  exact topCell_pushWord (takeTarget (.jsr target) target s) (s.pc + 2)

/-- R275: a RET takes PC from the cell below SP and lowers SP. -/
theorem exec_ret_pops (s : State) : ∃ t, exec .ret s = .next t ∧ t.pc = topCell s ∧ t.sp = s.sp - 1 :=
  ⟨_, rfl, rfl, rfl⟩

/-! ## The instructions -/

/-- Settles O20: the next state is the meaning's own record. -/
theorem jmpGoesToTheTarget : Obligations.JmpGoesToTheTarget :=
  fun target s => ⟨rfl, exec_runsAs (.jmp target) s⟩

/-- Settles O21: each branch is the shared one on its own flag, whose two ways are one record each. -/
theorem branchesTestTheirFlag : Obligations.BranchesTestTheirFlag := by
  intro cls flag branch target s hrow
  simp only [List.mem_cons, List.not_mem_nil, or_false, Prod.mk.injEq] at hrow
  obtain ⟨rfl, rfl, rfl⟩ | ⟨rfl, rfl, rfl⟩ | ⟨rfl, rfl, rfl⟩ := hrow
  · exact ⟨branchOn_eq s s.cf (.jmpc target) target, exec_runsAs (.jmpc target) s⟩
  · exact ⟨branchOn_eq s s.zf (.jmpz target) target, exec_runsAs (.jmpz target) s⟩
  · exact ⟨branchOn_eq s s.sf (.jmpn target) target, exec_runsAs (.jmpn target) s⟩

/-- Settles O22: the meaning's own record, with SP as a number. -/
theorem jsrPushesTheReturnAddress : Obligations.JsrPushesTheReturnAddress := by
  intro target s
  rw [← sp_add_one]
  exact ⟨rfl, exec_runsAs (.jsr target) s⟩

/-- Settles O23: the cell below SP is that at the new SP. -/
theorem retPopsThePc : Obligations.RetPopsThePc := by
  intro s
  simp only [← sp_sub_one]
  exact ⟨rfl, exec_runsAs .ret s⟩

/-- Settles O24: the RET pops the address that the JSR pushed, and lowers the SP that the JSR raised. -/
theorem retReturnsAfterTheJsr : Obligations.RetReturnsAfterTheJsr := by
  intro target s t u hjsr hsp hcell
  obtain ⟨v, hret, hpc, hv⟩ := exec_ret_pops u
  have raised : t.sp = s.sp + 1 := (exec_stack_of_pushes hjsr (.inl ⟨target, rfl⟩)).1
  exact ⟨v, hret, by rw [hpc, hcell, topCell_exec_jsr hjsr], by rw [hv, hsp, raised, add_sub_cancel_right]⟩

end Sys2Proof.Machine
end

section
/-! The immediate instructions, and the nullary ones of the same operations (spec/45_immediate.md R290 to R297,
spec/46_nullary.md R318 to R322): the next state of each, and its run in one step and in its ticks. -/

namespace Sys2Proof.Machine

variable {op : AluOp} {i : Instr} {s : State} {imm r : Byte} {n : Nat} {c : Bool}

/-! ## What the instructions share -/

/-- R135 to R137, R290: an ALU result of A and the immediate byte, with ZF and SF read from it as a number. -/
theorem immediateToAlu_eq_of_result (hr : aluResult op s.a imm = r) (hn : (aluResult op s.a imm).toNat = n)
    (hc : (aluCarry op s.a imm).getD s.cf = c) :
    immediateToAlu op i imm s = .next { s with
      ir := firstByte i, pc := s.pc + 2, mar := s.pc + 1, b := imm, a := r, cf := c, zf := decide (n = 0),
      sf := decide (128 ≤ n), microStep := 0, cw := 0 } := by
  subst hr hn hc
  simp only [immediateToAlu_eq, beq_zero_eq_decide, getLsbD_top, Nat.reducePow]

/-- The difference modulo 256 is 0 between equal bytes only. -/
theorem eq_iff_difference_eq_zero (a b : Byte) : a = b ↔ (a.toNat + 256 - b.toNat) % 256 = 0 := by
  rw [← BitVec.toNat_inj]
  omega

/-! ## The instructions -/

/-- Settles O25: both next states are the meanings' own records. -/
theorem ldiLdibLoadTheImmediate : Obligations.LdiLdibLoadTheImmediate :=
  fun imm s => ⟨rfl, exec_runsAs (.ldi imm) s, rfl, exec_runsAs (.ldib imm) s⟩

/-- Settles O26: the results and carries are those of the sum (R121) and of the difference (R122). -/
theorem addSubImmediate : Obligations.AddSubImmediate := by
  intro imm s sum difference
  have hsum : (aluResult .add s.a imm).toNat = sum % 256 := aluResult_add_toNat ..
  have hcarry : aluCarry .add s.a imm = some (decide (256 ≤ sum)) := aluCarry_add ..
  have hdifference : (aluResult .sub s.a imm).toNat = difference := aluResult_sub_toNat ..
  have hnoBorrow : aluCarry .sub s.a imm = some (decide (imm.toNat ≤ s.a.toNat)) := aluCarry_sub ..
  simp only [eq_iff_difference_eq_zero s.a imm]
  exact ⟨immediateToAlu_eq_of_result (BitVec.eq_of_toNat_eq hsum) hsum (congrArg (·.getD s.cf) hcarry),
    exec_runsAs (.addImm imm) s,
    immediateToAlu_eq_of_result (eq_ofNat_of_toNat_eq hdifference) hdifference (congrArg (·.getD s.cf) hnoBorrow),
    exec_runsAs (.subImm imm) s⟩

/-- Settles O27: both next states are the meanings' own records, with SP as a number; the nibble is the free one drawn (D13). -/
theorem bytePushesWriteTheCellAtSp : Obligations.BytePushesWriteTheCellAtSp := by
  intro imm s
  rw [← sp_add_one]
  exact ⟨⟨Config.freeNibble s.freeCount, s.freeCount + 1, rfl⟩, exec_runsAs (.pushImm imm) s,
    ⟨Config.freeNibble s.freeCount, s.freeCount + 1, rfl⟩, exec_runsAs .pusha s⟩

/-- Settles O28: the three next states are the meanings' own records, the HT word that of `haltAtStep`. -/
theorem haltFamilyEndsTheRun : Obligations.HaltFamilyEndsTheRun :=
  fun imm s => ⟨rfl, exec_runsAs (.haltImm imm) s, rfl, exec_runsAs .halta s, rfl, exec_runsAs .halt s⟩

/-- Settles O29: both next states are the meanings' own records. -/
theorem setpRefreshSignalTheScreen : Obligations.SetpRefreshSignalTheScreen :=
  fun imm s => ⟨rfl, exec_runsAs (.setp imm) s, rfl, exec_runsAs .refresh s⟩

end Sys2Proof.Machine
end

section
/-! The remaining nullary instructions (spec/46_nullary.md R310 to R317, R319, R323): the next state of each, with the result and
the flags of the ALU ones in natural numbers, and its run in one step and in its ticks. -/

namespace Sys2Proof.Machine

variable {op : AluOp} {i : Instr} {s : State} {n : Nat} {c z g : Bool}

/-! ## What the instructions share -/

/-- R135 to R137, R310: an ALU result of A and B as a number, which may be given before it is reduced modulo 256, and the
flags read from it. -/
theorem registerAlu_eq_of_result (hn : (aluResult op s.a s.b).toNat = n % 256)
    (hc : (aluCarry op s.a s.b).getD s.cf = c) (hz : decide (n % 256 = 0) = z) (hs : decide (128 ≤ n % 256) = g) :
    registerAlu op i s = .next { s with
      ir := firstByte i, pc := s.pc + 1, mar := s.pc, a := BitVec.ofNat 8 n, cf := c, zf := z, sf := g,
      microStep := 0, cw := 0 } := by
  subst hz hs
  have h := aluToA_eq_of_result (s := takeNone i s) (r := BitVec.ofNat 8 n) (BitVec.eq_of_toNat_eq hn) hn hc
  exact congrArg (fun t => Host.Outcome.next (endInstruction t)) h

/-- R175: the byte that a pop of 8 bits takes from a cell, as a number. -/
theorem lowByte_eq_ofNat (v : Word) : v.extractLsb' 0 8 = BitVec.ofNat 8 (v.toNat % 256) :=
  eq_ofNat_of_toNat_eq (by simp)

/-! ## The instructions -/

/-- Settles O30: the next state is the meaning's own record. -/
theorem outCopiesA : Obligations.OutCopiesA :=
  fun s => ⟨rfl, exec_runsAs .out s⟩

/-- Settles O31: the results are A + 1 (R123) and 255 - A (R127), and the flags by arithmetic on them; NOT has no carry. -/
theorem incNotOnA : Obligations.IncNotOnA := by
  intro s
  have hinc : (aluResult .inc s.a s.b).toNat = (s.a.toNat + 1) % 256 := aluResult_inc_toNat ..
  have hcarry : aluCarry .inc s.a s.b = some (decide (s.a.toNat = 255)) := aluCarry_inc ..
  have hnot : (aluResult .not s.a s.b).toNat = (255 - s.a.toNat) % 256 := (aluResult_not_toNat ..).trans (by omega)
  exact ⟨registerAlu_eq_of_result hinc (congrArg (·.getD s.cf) hcarry)
      (decide_eq_decide.mpr (by omega)) (decide_eq_decide.mpr (by omega)),
    exec_runsAs .inc s,
    registerAlu_eq_of_result hnot rfl (decide_eq_decide.mpr (by omega)) (decide_eq_decide.mpr (by omega)),
    exec_runsAs .not s⟩

/-- Settles O32: the results are A / 2 (R128), which is below 128, and 2 A (R129); RSH has no carry. -/
theorem shiftsOfA : Obligations.ShiftsOfA := by
  intro s
  have hrsh : (aluResult .rsh s.a s.b).toNat = s.a.toNat / 2 % 256 := (aluResult_rsh_toNat ..).trans (by omega)
  have hlsh : (aluResult .lsh s.a s.b).toNat = 2 * s.a.toNat % 256 := aluResult_lsh_toNat ..
  have hcarry : aluCarry .lsh s.a s.b = some (decide (128 ≤ s.a.toNat)) := aluCarry_lsh ..
  exact ⟨registerAlu_eq_of_result hrsh rfl (decide_eq_decide.mpr (by omega)) (decide_eq_false (by omega)),
    exec_runsAs .rsh s,
    registerAlu_eq_of_result hlsh (congrArg (·.getD s.cf) hcarry)
      (decide_eq_decide.mpr (by omega)) (decide_eq_decide.mpr (by omega)),
    exec_runsAs .lsh s⟩

/-- Settles O33: both next states are the meanings' own records. -/
theorem takeMoveCopyRegisters : Obligations.TakeMoveCopyRegisters :=
  fun s => ⟨rfl, exec_runsAs .take s, rfl, exec_runsAs .move s⟩

/-- Settles O34: the cell below SP is that at the new SP, and its low byte is it modulo 256. -/
theorem popaTakesTheLowByte : Obligations.PopaTakesTheLowByte := by
  intro s
  simp only [← sp_sub_one, ← lowByte_eq_ofNat]
  exact ⟨rfl, exec_runsAs .popa s⟩

/-- Settles O35: the result is the low half of the product (R130), and the carry the free one of the operands (D9). -/
theorem multlMultipliesAByB : Obligations.MultlMultipliesAByB := by
  intro s low
  have hreduced : low % 256 = low := Nat.mod_mod ..
  have hlow : (aluResult .mull s.a s.b).toNat = low % 256 := (aluResult_mull_toNat ..).trans hreduced.symm
  exact ⟨registerAlu_eq_of_result hlow rfl (by rw [hreduced]) (by rw [hreduced]), exec_runsAs .multl s⟩

end Sys2Proof.Machine
end

section
/-! The absence of exceptions (spec/60_exceptions.md R340, R341): every meaning answers, and a fault is that of a tick asked of
a halted machine, at the level of the tick, of the run up to the boundary and of the step. -/

namespace Sys2Proof.Machine

variable {s : State} {rom : Rom} {w : ControlWord} {r : Fault} {n : Nat}

theorem exec_answers (i : Instr) (s : State) : Answers (exec i s) := by
  obtain ⟨u, hu⟩ | ⟨k, u, hu⟩ := exec_ends i s
  · exact ⟨_, hu⟩
  · exact ⟨_, hu⟩

/-- A word is refused or answered: no micro-step and no memory access faults (R340, R343). -/
theorem tickWord_ne_fault : tickWord w s ≠ .fault r := by
  unfold tickWord
  split
  · nofun
  · split
    · nofun
    · split <;> nofun

theorem halted_of_tick_fault (h : tick rom s = .fault r) : s.halted = true := by
  by_contra hh
  rw [tick, if_neg hh] at h
  split at h
  · cases h
  · exact tickWord_ne_fault h

/-- Up to the boundary only the first tick can be asked of a halted machine, since the run ends at the halt. -/
theorem halted_of_toBoundary_fault (h : toBoundary rom n s = .fault r) : s.halted = true := by
  induction n generalizing s with
  | zero => cases h
  | succ n ih =>
    rw [toBoundary] at h
    cases ht : tick rom s with
    | next t =>
      simp only [ht] at h
      split at h
      · cases h
      · next hgo => exact absurd (ih h) fun hh => hgo (by simp [hh])
    | fault r => exact halted_of_tick_fault ht
    | refused r => simp [ht] at h

/-- Settles O8: the meanings by how each ends, and the step by the ticks it is (R11). -/
theorem noInstructionCanFail : Obligations.NoInstructionCanFail :=
  ⟨exec_answers, fun s _ h => halted_of_toBoundary_fault ((stepIsTicksToTheBoundary s).symm.trans h)⟩

end Sys2Proof.Machine
end
